-- ==== Sys2Proof/Word.lean ====
section
/-! DEFINITION. The word types of MEXP and the plainest arithmetic on them (00_scope.md R7, R8). -/

namespace Sys2Proof

/-- A 32-bit word: a command word, a control register, a word of the DATA window (10_state.md R25, 30_encoding.md R80). -/
abbrev Word := BitVec 32

/-- The index of a big register: all sixteen 4-bit values are legal (00_scope.md R6 `NREG`, 30_encoding.md R82). -/
abbrev RegIx := Fin 16

/-- `bitlen x`, the least k with x < 2^k (00_scope.md R8). -/
def bitlen (x : Nat) : Nat :=
  if x = 0 then 0 else Nat.log2 x + 1

end Sys2Proof
end

