-- ==== Sys2Proof/Config.lean ====
section
/-! DEFINITION. The build parameters of MEXP (00_scope.md R6), which every definition takes from the state, and the
fixed numbers of the interface. No parameter has one value in the model: statements hold for each legal one
(00_scope.md R11). The order of host accesses and engine steps, which LAT stands for, is data of the state. -/

namespace Sys2Proof

/-- The build parameters that a definition of the block uses (00_scope.md R6). -/
structure Params where
  /-- `MAXW`, the largest legal width W. -/
  maxw : Nat
  /-- `BASE`, the byte address of the aperture on the host bus. -/
  base : Nat
deriving DecidableEq, Repr

/-- `APERTURE`, the aperture's size in bytes (00_scope.md R6). -/
def apertureSize : Nat := 0x8000

/-- The legal values of the parameters (00_scope.md R6; 92_eei_decisions.md "Parameters left OPEN"). -/
abbrev Params.Legal (p : Params) : Prop :=
  p.maxw % 16 = 0 ∧ 4096 ≤ p.maxw ∧ p.maxw ≤ 65520 ∧ p.base % apertureSize = 0

/-- `REG_BITS`, the width of every big register: exactly 2·MAXW (00_scope.md R6). -/
def Params.regBits (p : Params) : Nat := 2 * p.maxw

/-- The parameters of this hardware: MAXW is 4096 (00_scope.md R6). BASE is the platform's; 0 is the model's
(DESIGN CHOICE, log entry 2), and no statement rests on it. -/
def Params.default : Params := { maxw := 4096, base := 0 }

end Sys2Proof
end

