-- ==== Sys2Proof/Machine/State.lean ====
section
/-! DEFINITION. The state of MEXP as plain data (10_state.md), the inputs of the block and its bus responses, the stops of
a step, and the state after reset (10_state.md R39). -/

namespace Sys2Proof.Machine

/-! ### What the outside world presents to the block, and what it answers -/

/-- The size that the bus presents with an access: 1, 2 or 4 bytes (20_memory.md R51). -/
inductive Size where
  | byte
  | half
  | word
deriving DecidableEq, Repr

/-- One host bus access at a host bus byte address (00_scope.md R9 `MemRead`, `MemWrite`; 20_memory.md R51). -/
inductive Access where
  | read (addr : Nat) (size : Size)
  | write (addr : Nat) (size : Size) (v : Word)
deriving DecidableEq, Repr

/-- One entry of the total order of host accesses and engine steps (20_memory.md R63). -/
inductive Input where
  /-- The host performs one access. -/
  | access (a : Access)
  /-- The engine has its turn: it takes its step if a command is pending (30_encoding.md R86). -/
  | engineTurn
  /-- The reset input is asserted and released (70_reset_and_hazards.md R240). -/
  | hardwareReset
deriving DecidableEq, Repr

/-- The bus response to one access, always a normal completion (20_memory.md R53). -/
inductive Response where
  | readData (v : Word)
  | writeDone
deriving DecidableEq, Repr

/-! ### The block's registers -/

/-- The stored fields of STATUS (10_state.md R31). BUSY is PEND.valid, stored once there (R34). -/
structure Status where
  /-- Bit 1: the last accepted command has completed. -/
  done : Bool
  /-- Bit 2: a command completed with a fault. -/
  err : Bool
  /-- Bit 3: a CMD write was dropped. -/
  ovr : Bool
  /-- Bit 4: a host access was refused. -/
  accerr : Bool
  /-- Bit 5: the last CMP found its operands equal (R24). -/
  eq : Bool
  /-- Bit 6: the last CMP found the first operand less (R24). -/
  lt : Bool
  /-- Bits 11:8: the fault code (60_exceptions.md R211). -/
  errcode : BitVec 4
deriving DecidableEq, Repr

/-- The pending-command record PEND (10_state.md R34). -/
structure Pend where
  /-- PEND.valid, the same bit as STATUS.BUSY. -/
  valid : Bool
  /-- PEND.word, the accepted command word. -/
  word : Word
  /-- PEND.W, the width captured at acceptance. -/
  w : BitVec 16
deriving DecidableEq, Repr

/-- The machine: the block's state (10_state.md), its build parameters, and its environment (`inputs`, `responses`). -/
structure State where
  /-- The build parameters; no step changes them (00_scope.md R6). -/
  params : Params
  /-- R0 to R15, each below 2^REG_BITS (10_state.md R21). -/
  regs : Vector Nat 16
  /-- CTRL.IE (10_state.md R28). -/
  ie : Bool
  /-- STATUS (10_state.md R31). -/
  status : Status
  /-- The CMD read-back value (10_state.md R33). -/
  cmd : Word
  /-- WIDTH.W (10_state.md R29). -/
  width : BitVec 16
  /-- RSEL.IDX (10_state.md R30). -/
  rsel : RegIx
  /-- PEND (10_state.md R34). -/
  pend : Pend
  /-- The model's own: what the outside world does from here on, in the total order of 20_memory.md R63 (log entry 3). -/
  inputs : List Input
  /-- The model's own: the bus responses so far, newest first (log entry 4). -/
  responses : List Response
deriving DecidableEq, Repr

/-! ### The fault codes and the outcome of a command -/

/-- The command faults (60_exceptions.md R211). Each completes the command (R214); none stops the machine. -/
inductive FaultCode where
  /-- Code 1: no row of the opcode map matches the word. -/
  | illegal
  /-- Code 2: W outside 1..MAXW, or a state value at or above 2^W. -/
  | invalidParam
  /-- Code 3: the modulus register holds 0. -/
  | divZero
  /-- Code 4: the exact result does not fit in a register. -/
  | overflow
deriving DecidableEq, Repr

/-- What evaluating a command gives (30_encoding.md R86; 00_scope.md R10). -/
inductive Result where
  /-- `Ok(rd, v)`: one big register is written. -/
  | write (rd : RegIx) (v : Nat)
  /-- `Ok(flags eq, lt)`: CMP only. -/
  | flags (eq lt : Bool)
  /-- `Ok(none)`: NOP only. -/
  | nothing
  /-- `Fault(code)`. -/
  | fault (code : FaultCode)
deriving DecidableEq, Repr

/-- The register that an offset of the aperture names (10_state.md R25). -/
inductive Target where
  | id
  | param
  | ctrl
  | status
  | cmd
  | width
  | rsel
  /-- Word `i` of the DATA window. -/
  | data (i : Nat)
  /-- An offset R25 does not name (20_memory.md R58). -/
  | reserved
deriving DecidableEq, Repr

/-! ### The stops of a step -/

/-- The reasons for which the machine stops with a fault: there are none. A command fault completes the command
(60_exceptions.md R214), and the block never hangs on any input (70_reset_and_hazards.md R247). Safe: nothing is stopped
that the block would run. -/
inductive Fault where
deriving DecidableEq, Repr

/-- The reasons for which an instruction has no meaning. -/
inductive Refusal where
  /-- Raised by an arm of `exec` for an instruction that is not modelled; safe. No arm raises it: every command of the
  opcode table has its meaning. -/
  | notModelled (mnemonic : String)
deriving DecidableEq, Repr

/-! ### Reset (10_state.md R39) -/

/-- The block with parameters `p` right after reset (10_state.md R39), with nothing scheduled and nothing answered. -/
def State.resetWith (p : Params) : State :=
  { params := p
    regs := Vector.replicate 16 0
    ie := false
    status :=
      { done := false, err := false, ovr := false, accerr := false, eq := false, lt := false, errcode := 0#4 }
    cmd := 0x00000000#32
    width := 0#16
    rsel := 0
    pend := { valid := false, word := 0x00000000#32, w := 0#16 }
    inputs := []
    responses := [] }

/-- The machine right after reset, with the parameters of this hardware. -/
def State.reset : State := State.resetWith Params.default

end Sys2Proof.Machine
end

