-- ==== Sys2Proof/Machine/Ops.lean ====
section
/-! DEFINITION. The named operations over the state: registers, completion with and without a fault, acceptance of a
command, acknowledgement of a fault, reset, and the words of a big register. -/

namespace Sys2Proof.Machine

/-! ### Registers -/

/-- `R[i]` (00_scope.md R9). No register is hardwired (10_state.md R21). -/
def State.reg (s : State) (i : RegIx) : Nat := s.regs[i]

/-- `R[i] <- v` (00_scope.md R9). -/
def State.setReg (s : State) (i : RegIx) (v : Nat) : State :=
  { s with regs := s.regs.set i v }

/-- STATUS.BUSY, the same bit as PEND.valid (10_state.md R34). -/
def State.busy (s : State) : Bool := s.pend.valid

/-- The interrupt output, a level: IRQ = DONE AND IE (10_state.md R35, 60_exceptions.md R217). -/
def State.irq (s : State) : Bool := s.status.done && s.ie

/-! ### Completion (60_exceptions.md R213, R214) -/

/-- The STATUS.ERRCODE value of a fault (60_exceptions.md R211). -/
def FaultCode.code : FaultCode → BitVec 4
  | .illegal => 1#4
  | .invalidParam => 2#4
  | .divZero => 3#4
  | .overflow => 4#4

/-- What every completion does: BUSY <- 0, PEND.valid <- 0, DONE <- 1 (60_exceptions.md R213, R214). -/
def State.finish (s : State) : State :=
  { s with
    pend := { s.pend with valid := false }
    status := { s.status with done := true } }

/-- EQ and LT take their new values (43_support.md R193). -/
def State.setFlags (s : State) (eq lt : Bool) : State :=
  { s with status := { s.status with eq := eq, lt := lt } }

/-- ERRCODE <- code, ERR <- 1 (60_exceptions.md R214). -/
def State.recordFault (s : State) (code : FaultCode) : State :=
  { s with status := { s.status with err := true, errcode := code.code } }

/-- Fault completion, the block's taking of an exception: the cause goes to ERRCODE, the word stays in CMD, and control
goes nowhere (60_exceptions.md R214, R219). -/
def State.completeFault (s : State) (code : FaultCode) : State :=
  (s.recordFault code).finish

/-- The completion of a command with its result (30_encoding.md R86; 60_exceptions.md R213, R214). -/
def State.complete (s : State) : Result → State
  | .write rd v => (s.setReg rd v).finish
  | .flags eq lt => (s.setFlags eq lt).finish
  | .nothing => s.finish
  | .fault code => s.completeFault code

/-! ### Return from a fault, and the other write-1-to-clear bits (10_state.md R32, 60_exceptions.md R220) -/

/-- STATUS after a host write of `v` (10_state.md R32); a 1 in bit 2 is the return from a fault (60_exceptions.md R220). -/
def Status.clearOnes (t : Status) (v : Word) : Status :=
  { t with
    done := t.done && !v[1]
    err := t.err && !v[2]
    errcode := if v[2] then 0#4 else t.errcode
    ovr := t.ovr && !v[3]
    accerr := t.accerr && !v[4] }

/-- A host write of `v` to STATUS, never refused (10_state.md R32). -/
def State.writeStatus (s : State) (v : Word) : State :=
  { s with status := s.status.clearOnes v }

/-! ### Host-access errors (60_exceptions.md R216) -/

/-- ACCERR <- 1: the access is refused (20_memory.md R53, R57). -/
def State.refuseAccess (s : State) : State :=
  { s with status := { s.status with accerr := true } }

/-- OVR <- 1: the CMD write is dropped (20_memory.md R54). -/
def State.dropCommand (s : State) : State :=
  { s with status := { s.status with ovr := true } }

/-! ### Acceptance of a command (20_memory.md R54) -/

/-- The block accepts the word `v`: PEND captures it and WIDTH.W, BUSY <- 1, DONE <- 0, CMD reads back `v`. -/
def State.accept (s : State) (v : Word) : State :=
  { s with
    pend := { valid := true, word := v, w := s.width }
    status := { s.status with done := false }
    cmd := v }

/-- A write of `v` to CMD: accepted only when BUSY = 0 and ERR = 0, and never decoded here (20_memory.md R54). -/
def State.issue (s : State) (v : Word) : State :=
  if s.busy = false ∧ s.status.err = false then s.accept v else s.dropCommand

/-! ### Reset (10_state.md R39, 70_reset_and_hazards.md R240, R241) -/

/-- Every piece of the block's state takes its reset value; a pending command is abandoned. The build parameters are
hardwired, and the environment is not the block's state. -/
def State.toReset (s : State) : State :=
  { State.resetWith s.params with inputs := s.inputs, responses := s.responses }

/-! ### The 32-bit words of a big register (20_memory.md R52, R55, R56) -/

/-- DATA word `i` of the value `x`: bits [32i+31:32i]. -/
def dataWord (x i : Nat) : Word := BitVec.ofNat 32 (x >>> (32 * i))

/-- The value `x` with its DATA word `i` replaced by `v`, as R56 writes it. -/
def replaceDataWord (x i : Nat) (v : Word) : Nat :=
  x - ((dataWord x i).toNat <<< (32 * i)) + (v.toNat <<< (32 * i))

/-- Byte `j` of a 32-bit word: bits [8j+7:8j], little-endian (20_memory.md R52). -/
def wordByte (v : Word) (j : Nat) : BitVec 8 := BitVec.ofNat 8 (v.toNat >>> (8 * j))

end Sys2Proof.Machine
end

