-- ==== Sys2Proof/Machine/Bus.lean ====
section
/-! DEFINITION. The bus target port: where an access goes, what each register reads as, and what each write does
(10_state.md R25 to R33; 20_memory.md R51 to R59). -/

namespace Sys2Proof.Machine

/-! ### The map of the aperture -/

/-- The aperture offset of a host bus address; none where the aperture does not lie (10_state.md R38, 20_memory.md R51). -/
def portOffset (p : Params) (addr : Nat) : Option Nat :=
  if p.base ≤ addr ∧ addr < p.base + apertureSize then some (addr - p.base) else none

/-- The register map (10_state.md R25). -/
def target (p : Params) (off : Nat) : Target :=
  if off = 0x000 then .id
  else if off = 0x004 then .param
  else if off = 0x008 then .ctrl
  else if off = 0x00C then .status
  else if off = 0x010 then .cmd
  else if off = 0x014 then .width
  else if off = 0x018 then .rsel
  else if 0x1000 ≤ off ∧ off < 0x1000 + p.regBits / 8 then .data ((off - 0x1000) / 4)
  else .reserved

/-- Only an access of 4 bytes at an offset that is a multiple of 4 is accepted (20_memory.md R53). -/
def accepted (off : Nat) (size : Size) : Bool := size == .word && off % 4 == 0

/-! ### What each register reads as -/

/-- ID (10_state.md R26). -/
def idWord : Word := 0x4D455850#32

/-- PARAM: REV in bits 31:24, NREG in bits 23:16, MAXW in bits 15:0 (10_state.md R27). -/
def paramWord (p : Params) : Word := 0x01#8 ++ 0x10#8 ++ BitVec.ofNat 16 p.maxw

/-- CTRL: IE in bit 0; SRST and the reserved bits read 0 (10_state.md R28). -/
def ctrlWord (s : State) : Word := 0#31 ++ BitVec.ofBool s.ie

/-- STATUS (10_state.md R31). -/
def statusWord (s : State) : Word :=
  0#20 ++ s.status.errcode ++ 0#1 ++ BitVec.ofBool s.status.lt ++ BitVec.ofBool s.status.eq
    ++ BitVec.ofBool s.status.accerr ++ BitVec.ofBool s.status.ovr ++ BitVec.ofBool s.status.err
    ++ BitVec.ofBool s.status.done ++ BitVec.ofBool s.busy

/-- WIDTH: W in bits 15:0, the reserved bits 0 (10_state.md R29). -/
def widthWord (s : State) : Word := 0#16 ++ s.width

/-- RSEL: IDX in bits 3:0, the reserved bits 0 (10_state.md R30). -/
def rselWord (s : State) : Word := BitVec.ofNat 32 s.rsel.val

/-- The value an accepted read of a register returns; DATA is for BUSY = 0 (10_state.md R25 to R33, 20_memory.md R55, R58). -/
def registerWord (s : State) : Target → Word
  | .id => idWord
  | .param => paramWord s.params
  | .ctrl => ctrlWord s
  | .status => statusWord s
  | .cmd => s.cmd
  | .width => widthWord s
  | .rsel => rselWord s
  | .data i => dataWord (s.reg s.rsel) i
  | .reserved => 0#32

/-- The access is one that a running command refuses: to DATA (20_memory.md R57). -/
def Target.isData : Target → Bool
  | .data _ => true
  | _ => false

/-- A read that the block refuses: of a wrong size or alignment, or of DATA while BUSY = 1 (20_memory.md R53, R57). -/
def readRefused (s : State) (off : Nat) (size : Size) : Bool :=
  !accepted off size || ((target s.params off).isData && s.busy)

/-- `MemRead`: the state after the read, and the data returned. A read changes state only when it is refused
(20_memory.md R53, R55, R59). -/
def busRead (s : State) (off : Nat) (size : Size) : State × Word :=
  if readRefused s off size then (s.refuseAccess, 0#32)
  else (s, registerWord s (target s.params off))

/-! ### What each write does -/

/-- A write of CTRL: a 1 in SRST resets the block, whatever IE says; otherwise IE is stored (10_state.md R28,
70_reset_and_hazards.md R241). -/
def State.writeCtrl (s : State) (v : Word) : State :=
  if v[1] then s.toReset else { s with ie := v[0] }

/-- A write of WIDTH stores W as written, and is refused while BUSY = 1 (10_state.md R29, 20_memory.md R57). -/
def State.writeWidth (s : State) (v : Word) : State :=
  if s.busy then s.refuseAccess else { s with width := v.extractLsb 15 0 }

/-- A write of RSEL stores IDX, at any time (10_state.md R30). -/
def State.writeRsel (s : State) (v : Word) : State :=
  { s with rsel := (v.extractLsb 3 0).toFin }

/-- A write of DATA word `i` replaces that word of R[RSEL.IDX], and is refused while BUSY = 1 (20_memory.md R56, R57). -/
def State.writeData (s : State) (i : Nat) (v : Word) : State :=
  if s.busy then s.refuseAccess
  else s.setReg s.rsel (replaceDataWord (s.reg s.rsel) i v)

/-- The effect of an accepted write on the register it names (20_memory.md R54, R56, R58). -/
def writeTarget (s : State) (v : Word) : Target → State
  | .id => s
  | .param => s
  | .ctrl => s.writeCtrl v
  | .status => s.writeStatus v
  | .cmd => s.issue v
  | .width => s.writeWidth v
  | .rsel => s.writeRsel v
  | .data i => s.writeData i v
  | .reserved => s

/-- `MemWrite`: the state after the write (20_memory.md R53 to R58). -/
def busWrite (s : State) (off : Nat) (size : Size) (v : Word) : State :=
  if accepted off size then writeTarget s v (target s.params off) else s.refuseAccess

/-! ### A host access -/

/-- The bus response is given, a normal completion (20_memory.md R53). -/
def State.respond (s : State) (r : Response) : State :=
  { s with responses := r :: s.responses }

/-- One host access, indivisible (20_memory.md R60). An address outside the aperture is not presented to the port
(log entry 6). -/
def hostAccess (a : Access) (s : State) : State :=
  match a with
  | .read addr size =>
    match portOffset s.params addr with
    | some off => (busRead s off size).1.respond (.readData (busRead s off size).2)
    | none => s
  | .write addr size v =>
    match portOffset s.params addr with
    | some off => (busWrite s off size v).respond .writeDone
    | none => s

/-! ### The aperture seen byte by byte (20_memory.md R52) -/

/-- The byte at an offset of the aperture: byte `off mod 4` of the word a read of `off - off mod 4` would return, with no
side effect (20_memory.md R52). -/
def apertureByte (s : State) (off : Nat) : BitVec 8 :=
  wordByte (busRead s (off - off % 4) .word).2 (off % 4)

end Sys2Proof.Machine
end

