-- ==== Sys2Proof/Syntax.lean ====
section
/-! DEFINITION. The command set of MEXP: one constructor per row of the opcode table (30_encoding.md R83, R84). -/

namespace Sys2Proof

/-- The 18 commands. Register operands stand in the order of R83's "used" column, the destination first (R91). A register
index has four bits and every value is legal (R82), so it is a `RegIx`; an immediate is the unsigned value 0..65535 of
R82, checked by `WellFormed`. -/
inductive Instr where
  /-- No operation (43_support.md R190). -/
  | nop
  /-- Copy a register (43_support.md R191). -/
  | mov (rd rs1 : RegIx)
  /-- Load a small immediate (43_support.md R192). -/
  | ldi (rd : RegIx) (imm : Nat)
  /-- Exact addition (40_bigint.md R101). -/
  | add (rd rs1 rs2 : RegIx)
  /-- Exact multiplication (40_bigint.md R102). -/
  | mul (rd rs1 rs2 : RegIx)
  /-- General modular reduction (40_bigint.md R103). -/
  | mod (rd rs1 rs2 : RegIx)
  /-- Modulus by 2^W (40_bigint.md R104). -/
  | mask (rd rs1 : RegIx)
  /-- Left shift masked to W (40_bigint.md R105). -/
  | shl (rd rs1 : RegIx) (imm : Nat)
  /-- Right shift masked to W (40_bigint.md R106). -/
  | shr (rd rs1 : RegIx) (imm : Nat)
  /-- Bitwise exclusive OR (40_bigint.md R107). -/
  | xor (rd rs1 rs2 : RegIx)
  /-- Unsigned compare (43_support.md R193). -/
  | cmp (rs1 rs2 : RegIx)
  /-- Force the candidate's top bit (42_prng.md R168). -/
  | topbit (rd rs1 : RegIx)
  /-- Modular multiplication (41_modexp.md R140). -/
  | modmul (rd rs1 rs2 rs3 : RegIx)
  /-- Modular squaring (41_modexp.md R141). -/
  | modsqr (rd rs1 rs2 : RegIx)
  /-- Modular exponentiation (41_modexp.md R142). -/
  | modexp (rd rs1 rs2 rs3 : RegIx)
  /-- One LCG step with explicit constants (42_prng.md R161). -/
  | lcg (rd rs1 rs2 rs3 : RegIx)
  /-- One LCG step with the default constants (42_prng.md R163). -/
  | lcgd (rd rs1 : RegIx)
  /-- One Xorshift step (42_prng.md R166). -/
  | xsh (rd rs1 : RegIx)
deriving DecidableEq, Repr

end Sys2Proof
end

