-- ==== Sys2Proof/WellFormed.lean ====
section
/-! DEFINITION. Which terms of `Instr` are commands of the block: those whose immediate fits its 16-bit field
(30_encoding.md R82). Register operands are in range by their type. -/

namespace Sys2Proof

/-- `imm16` is an unsigned value 0..65535 (30_encoding.md R82). -/
def immFits (imm : Nat) : Bool := decide (imm < 65536)

/-- The commands that an encoding exists for. -/
def WellFormed : Instr → Bool
  | .nop => true
  | .mov _ _ => true
  | .ldi _ imm => immFits imm
  | .add _ _ _ => true
  | .mul _ _ _ => true
  | .mod _ _ _ => true
  | .mask _ _ => true
  | .shl _ _ imm => immFits imm
  | .shr _ _ imm => immFits imm
  | .xor _ _ _ => true
  | .cmp _ _ => true
  | .topbit _ _ => true
  | .modmul _ _ _ _ => true
  | .modsqr _ _ _ => true
  | .modexp _ _ _ _ => true
  | .lcg _ _ _ _ => true
  | .lcgd _ _ => true
  | .xsh _ _ => true

end Sys2Proof
end

