-- ==== Sys2Proof/Decode.lean ====
section
/-! DEFINITION. Decoding a command word, total and rejecting by name, and encoding a command (30_encoding.md R80 to R85,
R89). The opcode table is R83's, row by row, with its match and mask columns. -/

namespace Sys2Proof

/-! ### The fields of a command word (30_encoding.md R80 to R82) -/

/-- `op = word[31:26]`. -/
def opField (w : Word) : BitVec 6 := w.extractLsb 31 26

/-- `rd = word[25:22]`. -/
def rdField (w : Word) : RegIx := (w.extractLsb 25 22).toFin

/-- `rs1 = word[21:18]`. -/
def rs1Field (w : Word) : RegIx := (w.extractLsb 21 18).toFin

/-- `rs2 = word[17:14]`. -/
def rs2Field (w : Word) : RegIx := (w.extractLsb 17 14).toFin

/-- `rs3 = word[13:10]`. -/
def rs3Field (w : Word) : RegIx := (w.extractLsb 13 10).toFin

/-- `imm16 = zext_16(word[15:0])`, never sign-extended or scaled. -/
def immField (w : Word) : Nat := (w.extractLsb 15 0).toNat

/-! ### The opcode map (30_encoding.md R83) -/

/-- One row of R83: a word is this command iff `word & mask = pattern`. -/
structure Row where
  mnemonic : String
  pattern : Word
  mask : Word
  build : Word → Instr

/-- The word is this row's command. -/
def Row.accepts (r : Row) (w : Word) : Bool := w &&& r.mask == r.pattern

/-- The support and big-integer rows of R83, opcodes 0x00 to 0x0B. -/
def substrateRows : List Row :=
  [ ⟨"NOP", 0x00000000#32, 0xFFFFFFFF#32, fun _ => .nop⟩,
    ⟨"MOV", 0x04000000#32, 0xFC03FFFF#32, fun w => .mov (rdField w) (rs1Field w)⟩,
    ⟨"LDI", 0x08000000#32, 0xFC3F0000#32, fun w => .ldi (rdField w) (immField w)⟩,
    ⟨"ADD", 0x0C000000#32, 0xFC003FFF#32, fun w => .add (rdField w) (rs1Field w) (rs2Field w)⟩,
    ⟨"MUL", 0x10000000#32, 0xFC003FFF#32, fun w => .mul (rdField w) (rs1Field w) (rs2Field w)⟩,
    ⟨"MOD", 0x14000000#32, 0xFC003FFF#32, fun w => .mod (rdField w) (rs1Field w) (rs2Field w)⟩,
    ⟨"MASK", 0x18000000#32, 0xFC03FFFF#32, fun w => .mask (rdField w) (rs1Field w)⟩,
    ⟨"SHL", 0x1C000000#32, 0xFC030000#32, fun w => .shl (rdField w) (rs1Field w) (immField w)⟩,
    ⟨"SHR", 0x20000000#32, 0xFC030000#32, fun w => .shr (rdField w) (rs1Field w) (immField w)⟩,
    ⟨"XOR", 0x24000000#32, 0xFC003FFF#32, fun w => .xor (rdField w) (rs1Field w) (rs2Field w)⟩,
    ⟨"CMP", 0x28000000#32, 0xFFC03FFF#32, fun w => .cmp (rs1Field w) (rs2Field w)⟩,
    ⟨"TOPBIT", 0x2C000000#32, 0xFC03FFFF#32, fun w => .topbit (rdField w) (rs1Field w)⟩ ]

/-- The modular and generator rows of R83, opcodes 0x10 to 0x1A. -/
def modularRows : List Row :=
  [ ⟨"MODMUL", 0x40000000#32, 0xFC0003FF#32,
      fun w => .modmul (rdField w) (rs1Field w) (rs2Field w) (rs3Field w)⟩,
    ⟨"MODSQR", 0x44000000#32, 0xFC003FFF#32, fun w => .modsqr (rdField w) (rs1Field w) (rs2Field w)⟩,
    ⟨"MODEXP", 0x48000000#32, 0xFC0003FF#32,
      fun w => .modexp (rdField w) (rs1Field w) (rs2Field w) (rs3Field w)⟩,
    ⟨"LCG", 0x60000000#32, 0xFC0003FF#32,
      fun w => .lcg (rdField w) (rs1Field w) (rs2Field w) (rs3Field w)⟩,
    ⟨"LCGD", 0x64000000#32, 0xFC03FFFF#32, fun w => .lcgd (rdField w) (rs1Field w)⟩,
    ⟨"XSH", 0x68000000#32, 0xFC03FFFF#32, fun w => .xsh (rdField w) (rs1Field w)⟩ ]

/-- The closed command set (30_encoding.md R84). -/
def opcodeRows : List Row := substrateRows ++ modularRows

/-! ### Decoding -/

/-- Why a word is no command (30_encoding.md R89). Either way the engine step completes with ILLEGAL. -/
inductive DecodeError where
  /-- The opcode is in no row of R83. -/
  | reservedOpcode (op : BitVec 6)
  /-- The opcode is this row's, and a reserved-zero field is not zero (R85). -/
  | reservedField (mnemonic : String)
deriving DecidableEq, Repr

/-- The name of the rejection of a word that no row accepts. -/
def rejection (w : Word) : DecodeError :=
  match opcodeRows.find? (fun r => opField r.pattern == opField w) with
  | some r => .reservedField r.mnemonic
  | none => .reservedOpcode (opField w)

/-- The command of a word: the row of R83 that accepts it (30_encoding.md R86; the length is always one word, R90). -/
def decode (w : Word) : Except DecodeError Instr :=
  match opcodeRows.find? (fun r => r.accepts w) with
  | some r => .ok (r.build w)
  | none => .error (rejection w)

/-- The command that the decoder reads from a word given as a number; every bit from `nbits` up is 0. -/
def decodeTableWord (nbits w : Nat) : Option Instr :=
  match decode (BitVec.ofNat 32 (w % 2 ^ nbits)) with
  | .ok i => some i
  | .error _ => none

/-! ### Encoding (30_encoding.md R80, R81, R91) -/

/-- A register index placed at bit `pos`. -/
def placeReg (r : RegIx) (pos : Nat) : Word := BitVec.ofNat 32 r.val <<< pos

/-- A format R word: the opcode's pattern with rd, rs1, rs2 and rs3 at bits 22, 18, 14 and 10 (R80). -/
def formatR (pattern : Word) (rd rs1 rs2 rs3 : RegIx) : Word :=
  pattern ||| placeReg rd 22 ||| placeReg rs1 18 ||| placeReg rs2 14 ||| placeReg rs3 10

/-- A format I word: the opcode's pattern with rd, rs1 and the immediate at bits 22, 18 and 0 (R81). -/
def formatI (pattern : Word) (rd rs1 : RegIx) (imm : Nat) : Word :=
  pattern ||| placeReg rd 22 ||| placeReg rs1 18 ||| (BitVec.ofNat 16 imm).zeroExtend 32

/-- The word of a command, every unused field 0 (30_encoding.md R85, R91). -/
def encode : Instr → Word
  | .nop => formatR 0x00000000#32 0 0 0 0
  | .mov rd rs1 => formatR 0x04000000#32 rd rs1 0 0
  | .ldi rd imm => formatI 0x08000000#32 rd 0 imm
  | .add rd rs1 rs2 => formatR 0x0C000000#32 rd rs1 rs2 0
  | .mul rd rs1 rs2 => formatR 0x10000000#32 rd rs1 rs2 0
  | .mod rd rs1 rs2 => formatR 0x14000000#32 rd rs1 rs2 0
  | .mask rd rs1 => formatR 0x18000000#32 rd rs1 0 0
  | .shl rd rs1 imm => formatI 0x1C000000#32 rd rs1 imm
  | .shr rd rs1 imm => formatI 0x20000000#32 rd rs1 imm
  | .xor rd rs1 rs2 => formatR 0x24000000#32 rd rs1 rs2 0
  | .cmp rs1 rs2 => formatR 0x28000000#32 0 rs1 rs2 0
  | .topbit rd rs1 => formatR 0x2C000000#32 rd rs1 0 0
  | .modmul rd rs1 rs2 rs3 => formatR 0x40000000#32 rd rs1 rs2 rs3
  | .modsqr rd rs1 rs2 => formatR 0x44000000#32 rd rs1 rs2 0
  | .modexp rd rs1 rs2 rs3 => formatR 0x48000000#32 rd rs1 rs2 rs3
  | .lcg rd rs1 rs2 rs3 => formatR 0x60000000#32 rd rs1 rs2 rs3
  | .lcgd rd rs1 => formatR 0x64000000#32 rd rs1 0 0
  | .xsh rd rs1 => formatR 0x68000000#32 rd rs1 0 0

end Sys2Proof
end

