-- ==== Sys2Proof/Machine/Operands.lean ====
section
/-! DEFINITION. The operand forms of a command and the checks on them: the captured width W, a state value below 2^W, a
nonzero modulus, an exact result that fits, a zero-extended immediate (30_encoding.md R82, R87, R88; 42_prng.md R160;
60_exceptions.md R211, R215). Each gives the command's result, or the fault of the check that fails. -/

namespace Sys2Proof.Machine

/-- `W`, the width captured when the command was accepted (00_scope.md R9, 10_state.md R34). -/
def State.W (s : State) : Nat := s.pend.w.toNat

/-- `zext_REG_BITS(imm16)`: the immediate's own value (00_scope.md R8, 30_encoding.md R82). -/
def immOperand (imm : Nat) : Nat := imm

/-- The width check of the W-commands (30_encoding.md R88): INVALID_PARAM unless 1 <= W <= MAXW, before anything else. -/
def State.withWidth (s : State) (k : Nat → Result) : Result :=
  if 1 ≤ s.W ∧ s.W ≤ s.params.maxw then k s.W else .fault .invalidParam

/-- The two checks of LCG, LCGD, XSH and TOPBIT, in their order (42_prng.md R160): the width, then R[rs1] < 2^W. `k` takes
W and R[rs1]. -/
def State.withRanged (s : State) (rs1 : RegIx) (k : Nat → Nat → Result) : Result :=
  s.withWidth fun w => if s.reg rs1 ≥ 2 ^ w then .fault .invalidParam else k w (s.reg rs1)

/-- The modulus operand of MOD, MODMUL, MODSQR and MODEXP: DIV_ZERO when it is 0 (60_exceptions.md R211). -/
def withModulus (n : Nat) (k : Nat → Result) : Result :=
  if n = 0 then .fault .divZero else k n

/-- An exact result is written if it fits in REG_BITS bits, and is OVERFLOW otherwise (40_bigint.md R100). -/
def exactResult (regBits : Nat) (rd : RegIx) (v : Nat) : Result :=
  if v ≥ 2 ^ regBits then .fault .overflow else .write rd v

end Sys2Proof.Machine
end

