-- ==== Sys2Proof/Machine/BigInt.lean ====
section
/-! DEFINITION. The big-integer substrate commands (40_bigint.md R100 to R108). Everything is unsigned and exact; nothing
wraps. -/

namespace Sys2Proof.Machine

/-- ADD: the exact sum, or OVERFLOW (40_bigint.md R101). -/
def execAdd (rd rs1 rs2 : RegIx) (s : State) : Host.Outcome State Fault Refusal :=
  .next (s.complete (exactResult s.params.regBits rd (s.reg rs1 + s.reg rs2)))

/-- MUL: the exact product, or OVERFLOW (40_bigint.md R102). -/
def execMul (rd rs1 rs2 : RegIx) (s : State) : Host.Outcome State Fault Refusal :=
  .next (s.complete (exactResult s.params.regBits rd (s.reg rs1 * s.reg rs2)))

/-- MOD: the least non-negative remainder, or DIV_ZERO (40_bigint.md R103). -/
def execMod (rd rs1 rs2 : RegIx) (s : State) : Host.Outcome State Fault Refusal :=
  .next (s.complete (withModulus (s.reg rs2) fun n => .write rd (s.reg rs1 % n)))

/-- MASK: `R[rs1] mod 2^W` (40_bigint.md R104). -/
def execMask (rd rs1 : RegIx) (s : State) : Host.Outcome State Fault Refusal :=
  .next (s.complete (s.withWidth fun w => .write rd (s.reg rs1 % 2 ^ w)))

/-- SHL: `(R[rs1] << imm16) mod 2^W` (40_bigint.md R105). -/
def execShl (rd rs1 : RegIx) (imm : Nat) (s : State) : Host.Outcome State Fault Refusal :=
  .next (s.complete (s.withWidth fun w => .write rd ((s.reg rs1 <<< immOperand imm) % 2 ^ w)))

/-- SHR: `(R[rs1] >> imm16) mod 2^W`, the mask after the logical shift (40_bigint.md R106). -/
def execShr (rd rs1 : RegIx) (imm : Nat) (s : State) : Host.Outcome State Fault Refusal :=
  .next (s.complete (s.withWidth fun w => .write rd ((s.reg rs1 >>> immOperand imm) % 2 ^ w)))

/-- XOR over all REG_BITS bits, with no mask (40_bigint.md R107). -/
def execXor (rd rs1 rs2 : RegIx) (s : State) : Host.Outcome State Fault Refusal :=
  .next (s.complete (.write rd (s.reg rs1 ^^^ s.reg rs2)))

end Sys2Proof.Machine
end

