-- ==== Sys2Proof/Machine/ModExp.lean ====
section
/-! DEFINITION. The modular commands MODMUL, MODSQR and MODEXP (41_modexp.md R140 to R144). -/

namespace Sys2Proof.Machine

/-- `b**e mod n` by repeated squaring from the top bit of `e` down, for an exponent of at most `k` bits. The value is R142's
whatever the order of multiplications (41_modexp.md R143); Laws/Arith.lean proves it equal to the exact power. -/
def modPowBits (b n : Nat) : Nat → Nat → Nat
  | 0, _ => 1 % n
  | k + 1, e =>
    let half := modPowBits b n k (e / 2)
    if e % 2 = 1 then half * half % n * b % n else half * half % n

/-- `b**e mod n`, with 0**0 = 1 (41_modexp.md R142). -/
def modPow (b e n : Nat) : Nat := modPowBits b n (bitlen e) e

/-- MODMUL: the residue of the exact product, or DIV_ZERO (41_modexp.md R140). -/
def execModmul (rd rs1 rs2 rs3 : RegIx) (s : State) : Host.Outcome State Fault Refusal :=
  .next (s.complete (withModulus (s.reg rs3) fun n => .write rd (s.reg rs1 * s.reg rs2 % n)))

/-- MODSQR: the residue of the exact square, or DIV_ZERO (41_modexp.md R141). -/
def execModsqr (rd rs1 rs2 : RegIx) (s : State) : Host.Outcome State Fault Refusal :=
  .next (s.complete (withModulus (s.reg rs2) fun n => .write rd (s.reg rs1 * s.reg rs1 % n)))

/-- MODEXP: the residue of the exact power, or DIV_ZERO (41_modexp.md R142). -/
def execModexp (rd rs1 rs2 rs3 : RegIx) (s : State) : Host.Outcome State Fault Refusal :=
  .next (s.complete (withModulus (s.reg rs3) fun n => .write rd (modPow (s.reg rs1) (s.reg rs2) n)))

end Sys2Proof.Machine
end

