-- ==== Sys2Proof/Machine/Prng.lean ====
section
/-! DEFINITION. The generator steps LCG, LCGD and XSH, and TOPBIT (42_prng.md R160 to R169), with the block's constant
sets (10_state.md R36). -/

namespace Sys2Proof.Machine

/-- The built-in multiplier a of LCGD (10_state.md R36(a)). -/
def lcgMultiplier : Nat := 1103515245

/-- The built-in increment c of LCGD (10_state.md R36(a)). -/
def lcgIncrement : Nat := 12345

/-- `(a*x + c) mod 2^W`; the intermediate is exact (42_prng.md R161). -/
def lcgStep (w a c x : Nat) : Nat := (a * x + c) % 2 ^ w

/-- The shift amounts of one Xorshift step, selected by W, the branches tried from the top (42_prng.md R165). -/
def shiftTriple (w : Nat) : Nat × Nat × Nat :=
  if w ≤ 32 then (13, 17, 5)
  else if w ≤ 64 then (13, 7, 17)
  else if w ≤ 96 then (10, 5, 26)
  else if w ≤ 128 then (5, 14, 1)
  else (w / 3, w / 2, w / 5)

/-- `t ^ ((t << n) mod 2^W)` (42_prng.md R166). -/
def xorShiftLeft (w n t : Nat) : Nat := t ^^^ ((t <<< n) % 2 ^ w)

/-- `t ^ ((t >> n) mod 2^W)` (42_prng.md R166). -/
def xorShiftRight (w n t : Nat) : Nat := t ^^^ ((t >>> n) % 2 ^ w)

/-- One Xorshift step: the three sub-steps in order, each on the result of the one before (42_prng.md R166). -/
def xorshiftStep (w x : Nat) : Nat :=
  xorShiftLeft w (shiftTriple w).2.2
    (xorShiftRight w (shiftTriple w).2.1
      (xorShiftLeft w (shiftTriple w).1 x))

/-- LCG: one step with a = R[rs2] and c = R[rs3], of any value (42_prng.md R161). -/
def execLcg (rd rs1 rs2 rs3 : RegIx) (s : State) : Host.Outcome State Fault Refusal :=
  .next (s.complete (s.withRanged rs1 fun w x => .write rd (lcgStep w (s.reg rs2) (s.reg rs3) x)))

/-- LCGD: one step with the built-in constants (42_prng.md R163). -/
def execLcgd (rd rs1 : RegIx) (s : State) : Host.Outcome State Fault Refusal :=
  .next (s.complete (s.withRanged rs1 fun w x => .write rd (lcgStep w lcgMultiplier lcgIncrement x)))

/-- XSH: one Xorshift step (42_prng.md R166); a zero state is not special (R167), a small width is not corrected (R169). -/
def execXsh (rd rs1 : RegIx) (s : State) : Host.Outcome State Fault Refusal :=
  .next (s.complete (s.withRanged rs1 fun w x => .write rd (xorshiftStep w x)))

/-- TOPBIT: `R[rs1] | 2^(W-1)` (42_prng.md R168). -/
def execTopbit (rd rs1 : RegIx) (s : State) : Host.Outcome State Fault Refusal :=
  .next (s.complete (s.withRanged rs1 fun w x => .write rd (x ||| 2 ^ (w - 1))))

end Sys2Proof.Machine
end

