-- ==== Sys2Proof/Machine/Flags.lean ====
section
/-! DEFINITION. The two condition flags of the block, which only CMP computes (10_state.md R24, 43_support.md R193). -/

namespace Sys2Proof.Machine

/-- EQ: the operands are equal. -/
def flagEq (x y : Nat) : Bool := decide (x = y)

/-- LT: the first operand is less, unsigned, over the full width. -/
def flagLt (x y : Nat) : Bool := decide (x < y)

/-- The result of a comparison: both flags, always. -/
def compareResult (x y : Nat) : Result := .flags (flagEq x y) (flagLt x y)

end Sys2Proof.Machine
end

