-- ==== Sys2Proof/Machine/Support.lean ====
section
/-! DEFINITION. The support commands NOP, MOV, LDI and CMP (43_support.md R190 to R193). -/

namespace Sys2Proof.Machine

/-- NOP writes no register and no flag, and completes (43_support.md R190). -/
def execNop (s : State) : Host.Outcome State Fault Refusal :=
  .next (s.complete .nothing)

/-- MOV: `R[rd] <- R[rs1]`, all REG_BITS bits (43_support.md R191). -/
def execMov (rd rs1 : RegIx) (s : State) : Host.Outcome State Fault Refusal :=
  .next (s.complete (.write rd (s.reg rs1)))

/-- LDI: `R[rd] <- zext(imm16)`, the whole register (43_support.md R192). -/
def execLdi (rd : RegIx) (imm : Nat) (s : State) : Host.Outcome State Fault Refusal :=
  .next (s.complete (.write rd (immOperand imm)))

/-- CMP: EQ and LT from R[rs1] and R[rs2], unsigned (43_support.md R193). -/
def execCmp (rs1 rs2 : RegIx) (s : State) : Host.Outcome State Fault Refusal :=
  .next (s.complete (compareResult (s.reg rs1) (s.reg rs2)))

end Sys2Proof.Machine
end

