-- ==== Sys2Proof/Machine/Engine.lean ====
section
/-! DEFINITION. The engine step, the only transition of the ENGINE agent (30_encoding.md R86, R89). -/

namespace Sys2Proof.Machine

/-- The command the engine is about to run: PEND.word, decoded here and not at acceptance (30_encoding.md R86). -/
def pendingCommand (s : State) : Except DecodeError Instr := decode s.pend.word

/-- The engine step of a pending command: an illegal word completes with ILLEGAL, any other word with the result of its
row's rule (30_encoding.md R86, R89). -/
def engineStep (s : State) : Host.Outcome State Fault Refusal :=
  match pendingCommand s with
  | .ok i => exec i s
  | .error _ => .next (s.completeFault .illegal)

/-- The engine's turn: its step if PEND.valid = 1, nothing otherwise (30_encoding.md R86; idle, 60_exceptions.md R236). -/
def engineTurn (s : State) : Host.Outcome State Fault Refusal :=
  if s.busy then engineStep s else .next s

end Sys2Proof.Machine
end

