-- ==== Sys2Proof/Machine/Step.lean ====
section
/-! DEFINITION. One step of the machine: the next event of the total order of host accesses and engine steps
(20_memory.md R60, R63). -/

namespace Sys2Proof.Machine

/-- One step. The head of `inputs` says what comes next; where nothing is left, the engine has its turn, so that an accepted
command always completes (70_reset_and_hazards.md R247) and an idle block stays as it is (60_exceptions.md R236). -/
def step (s : State) : Host.Outcome State Fault Refusal :=
  match s.inputs with
  | [] => engineTurn s
  | .access a :: rest => .next (hostAccess a { s with inputs := rest })
  | .engineTurn :: rest => engineTurn { s with inputs := rest }
  | .hardwareReset :: rest => .next (State.toReset { s with inputs := rest })

/-- The state whose next step runs the command word `w`: the word is accepted (20_memory.md R54), and no host access is left
to come before the engine step (log entry 7). -/
def State.withFetchWord (s : State) (nbits w : Nat) : State :=
  { s.accept (BitVec.ofNat 32 (w % 2 ^ nbits)) with inputs := [] }

end Sys2Proof.Machine
end

