-- ==== Sys2Proof/Machine/Directives.lean ====
section
/-! DEFINITION. The notation of the spec around the commands: the pseudo-instructions (30_encoding.md R92), the host
directives as bus sequences (R93) and the assembler text of a command (R91). Nothing of the block depends on this file. -/

namespace Sys2Proof.Machine

/-! ### Pseudo-instructions (30_encoding.md R92) -/

/-- `clr rd` is `ldi rd, 0`. -/
def pseudoClr (rd : RegIx) : Instr := .ldi rd 0

/-- `one rd` is `ldi rd, 1`. -/
def pseudoOne (rd : RegIx) : Instr := .ldi rd 1

/-- `sqrm rd, rs1, rs2` is `modsqr rd, rs1, rs2`. -/
def pseudoSqrm (rd rs1 rs2 : RegIx) : Instr := .modsqr rd rs1 rs2

/-- `lcgstep rd` is `lcgd rd, rd`. -/
def pseudoLcgstep (rd : RegIx) : Instr := .lcgd rd rd

/-- `xsstep rd` is `xsh rd, rd`. -/
def pseudoXsstep (rd : RegIx) : Instr := .xsh rd rd

/-! ### Host directives (30_encoding.md R93) -/

/-- `MemRead(off, 4)` on a block with parameters `p`. -/
def memRead (p : Params) (off : Nat) : Input := .access (.read (p.base + off) .word)

/-- `MemWrite(off, 4, v)` on a block with parameters `p`. -/
def memWrite (p : Params) (off : Nat) (v : Word) : Input := .access (.write (p.base + off) .word v)

/-- `setw N`. -/
def setw (p : Params) (n : Nat) : List Input := [memWrite p 0x014 (BitVec.ofNat 32 n)]

/-- `load rI, V`: RSEL, then every word of the DATA window. -/
def loadReg (p : Params) (r : RegIx) (v : Nat) : List Input :=
  memWrite p 0x018 (BitVec.ofNat 32 r.val)
    :: (List.range (p.regBits / 32)).map fun k => memWrite p (0x1000 + 4 * k) (BitVec.ofNat 32 (v >>> (32 * k)))

/-- `issue C`. -/
def issueCommand (p : Params) (i : Instr) : List Input := [memWrite p 0x010 (encode i)]

/-- `wait`, as the part of the total order that ends it: the engine's turn, then the STATUS read that returns BUSY = 0. -/
def waitDone (p : Params) : List Input := [.engineTurn, memRead p 0x00C]

/-- `read rI`: RSEL, then every word of the DATA window. -/
def readReg (p : Params) (r : RegIx) : List Input :=
  memWrite p 0x018 (BitVec.ofNat 32 r.val)
    :: (List.range (p.regBits / 32)).map fun k => memRead p (0x1000 + 4 * k)

/-- `ack`, which clears DONE, ERR, OVR and ACCERR. -/
def ack (p : Params) : List Input := [memWrite p 0x00C 0x0000001E#32]

/-- A bare command line: `issue` followed by `wait`. -/
def commandLine (p : Params) (i : Instr) : List Input := issueCommand p i ++ waitDone p

/-- The part of the total order that runs one command and nothing else: the CMD write, then the engine's turn (20_memory.md
R54, R63; 30_encoding.md R86). -/
def runCommand (p : Params) (i : Instr) : List Input := issueCommand p i ++ [.engineTurn]

/-- The same command issued and run `k` times, and then `rest`. -/
def runTimes (p : Params) (i : Instr) : Nat → List Input → List Input
  | 0, rest => rest
  | k + 1, rest => runCommand p i ++ runTimes p i k rest

/-! ### Assembler text (30_encoding.md R91) -/

/-- A register is written r0 to r15. -/
def regText (r : RegIx) : String := "r" ++ toString r.val

/-- A mnemonic with its operands, destination first. -/
def lineText (mnemonic : String) (operands : List String) : String :=
  mnemonic ++ " " ++ String.intercalate ", " operands

/-- The line of a command in the spec's syntax. -/
def asmText : Instr → String
  | .nop => "nop"
  | .mov rd rs1 => lineText "mov" [regText rd, regText rs1]
  | .ldi rd imm => lineText "ldi" [regText rd, toString imm]
  | .add rd rs1 rs2 => lineText "add" [regText rd, regText rs1, regText rs2]
  | .mul rd rs1 rs2 => lineText "mul" [regText rd, regText rs1, regText rs2]
  | .mod rd rs1 rs2 => lineText "mod" [regText rd, regText rs1, regText rs2]
  | .mask rd rs1 => lineText "mask" [regText rd, regText rs1]
  | .shl rd rs1 imm => lineText "shl" [regText rd, regText rs1, toString imm]
  | .shr rd rs1 imm => lineText "shr" [regText rd, regText rs1, toString imm]
  | .xor rd rs1 rs2 => lineText "xor" [regText rd, regText rs1, regText rs2]
  | .cmp rs1 rs2 => lineText "cmp" [regText rs1, regText rs2]
  | .topbit rd rs1 => lineText "topbit" [regText rd, regText rs1]
  | .modmul rd rs1 rs2 rs3 => lineText "modmul" [regText rd, regText rs1, regText rs2, regText rs3]
  | .modsqr rd rs1 rs2 => lineText "modsqr" [regText rd, regText rs1, regText rs2]
  | .modexp rd rs1 rs2 rs3 => lineText "modexp" [regText rd, regText rs1, regText rs2, regText rs3]
  | .lcg rd rs1 rs2 rs3 => lineText "lcg" [regText rd, regText rs1, regText rs2, regText rs3]
  | .lcgd rd rs1 => lineText "lcgd" [regText rd, regText rs1]
  | .xsh rd rs1 => lineText "xsh" [regText rd, regText rs1]

end Sys2Proof.Machine
end

