-- ==== Sys2Proof/Safety.lean ====
section
/-! DEFINITION. What claims are stated in: how a command completes and what that leaves unchanged, the invariant of the
machine's states, the states a run reaches, and the end of a run. -/

namespace Sys2Proof.Machine

/-! ### How a command completes (60_exceptions.md R213, R214)

Each predicate names every field of the state, so each is a whole frame. -/

/-- What every completion does and leaves: BUSY and PEND.valid are 0, DONE is 1, and no field but the registers, EQ, LT, ERR
and ERRCODE is otherwise changed. -/
structure Completes (s t : State) : Prop where
  busy : t.busy = false
  done : t.status.done = true
  params : t.params = s.params
  ie : t.ie = s.ie
  ovr : t.status.ovr = s.status.ovr
  accerr : t.status.accerr = s.status.accerr
  cmd : t.cmd = s.cmd
  width : t.width = s.width
  rsel : t.rsel = s.rsel
  pend_word : t.pend.word = s.pend.word
  pend_w : t.pend.w = s.pend.w
  inputs : t.inputs = s.inputs
  responses : t.responses = s.responses

/-- The command completes with `Ok(rd, v)`: `R[rd]` is `v`, every other register, EQ, LT, ERR and ERRCODE are as before. -/
structure WritesReg (s t : State) (rd : RegIx) (v : Nat) : Prop extends Completes s t where
  written : t.reg rd = v
  others : ∀ r, r ≠ rd → t.reg r = s.reg r
  eq : t.status.eq = s.status.eq
  lt : t.status.lt = s.status.lt
  err : t.status.err = s.status.err
  errcode : t.status.errcode = s.status.errcode

/-- The command completes with `Ok(flags eq, lt)`: the flags have these values, every register, ERR and ERRCODE are as
before. -/
structure SetsFlags (s t : State) (eq lt : Prop) : Prop extends Completes s t where
  regs : ∀ r, t.reg r = s.reg r
  eq_iff : t.status.eq = true ↔ eq
  lt_iff : t.status.lt = true ↔ lt
  err : t.status.err = s.status.err
  errcode : t.status.errcode = s.status.errcode

/-- The command completes with `Ok(none)`: every register, flag, ERR and ERRCODE are as before. -/
structure OnlyCompletes (s t : State) : Prop extends Completes s t where
  regs : ∀ r, t.reg r = s.reg r
  eq : t.status.eq = s.status.eq
  lt : t.status.lt = s.status.lt
  err : t.status.err = s.status.err
  errcode : t.status.errcode = s.status.errcode

/-- The command completes with the fault `code`: ERR is 1, ERRCODE is `code`, every register and flag is as before. -/
structure TakesFault (s t : State) (code : BitVec 4) : Prop extends Completes s t where
  regs : ∀ r, t.reg r = s.reg r
  eq : t.status.eq = s.status.eq
  lt : t.status.lt = s.status.lt
  err : t.status.err = true
  errcode : t.status.errcode = code

/-! ### Runs -/

/-- What holds of every state of a run. -/
structure State.Inv (s : State) : Prop where
  /-- The parameters are legal (00_scope.md R6). -/
  params_legal : s.params.Legal
  /-- Every register value is in [0, 2^REG_BITS) (10_state.md R21, 40_bigint.md R108). -/
  regs_bound : ∀ r, s.reg r < 2 ^ s.params.regBits
  /-- BUSY = 1 implies DONE = 0 (10_state.md R31). -/
  busy_not_done : s.busy = true → s.status.done = false
  /-- BUSY = 1 implies ERR = 0 (10_state.md R31). -/
  busy_not_err : s.busy = true → s.status.err = false
  /-- ERR = 0 implies ERRCODE = 0 (10_state.md R31). -/
  no_err_no_code : s.status.err = false → s.status.errcode = 0#4
  /-- ERR = 1 goes with one of the four codes; 5 to 15 are never produced (60_exceptions.md R211). -/
  err_code : s.status.err = true → 1 ≤ s.status.errcode.toNat ∧ s.status.errcode.toNat ≤ 4
  /-- EQ = 1 and LT = 1 never occur together (43_support.md R193). -/
  flags_exclusive : ¬(s.status.eq = true ∧ s.status.lt = true)
  /-- CMD reads back the last accepted word, which PEND holds (10_state.md R33, R34). -/
  pend_word_is_cmd : s.pend.word = s.cmd
  /-- WIDTH is unchanged since acceptance while a command runs (60_exceptions.md R211). -/
  busy_width : s.busy = true → s.pend.w = s.width

/-- `s` steps to `t`. -/
def StepsTo (s t : State) : Prop := step s = .next t

/-- The states that a block with legal parameters reaches from reset, whatever the host and the engine do in whatever
order. -/
inductive Reachable : State → Prop where
  | reset (p : Params) (inputs : List Input) (legal : p.Legal) :
      Reachable { State.resetWith p with inputs := inputs }
  | step (s t : State) (reached : Reachable s) (next : StepsTo s t) : Reachable t

/-- The host program has issued its last access: what may be left are hardware resets and turns of the engine
(70_reset_and_hazards.md R250). -/
def HostDone (s : State) : Prop := ∀ a, .access a ∉ s.inputs

/-- The run has ended, as far as the block is concerned (70_reset_and_hazards.md R250): the host program has issued its last
access and BUSY = 0. The end of a run is the first of its states where this holds (log entry 17). -/
def Ended (s : State) : Prop := HostDone s ∧ s.busy = false

/-- What R250 calls the final state of a run that has ended, the control registers as the words they read back. -/
structure FinalState where
  regs : Vector Nat 16
  status : Word
  ctrl : Word
  width : Word
  rsel : Word
  cmd : Word
deriving DecidableEq, Repr

/-- The final state, for a run that ends in `s` (70_reset_and_hazards.md R250). -/
def State.finalState (s : State) : FinalState :=
  { regs := s.regs, status := statusWord s, ctrl := ctrlWord s, width := widthWord s, rsel := rselWord s, cmd := s.cmd }

end Sys2Proof.Machine
end

