-- ==== Sys2Proof/Certificates/Slice0/Obligations.lean ====
section
/-! DEFINITION. The statements for the provers, with the words they are stated in. `WritesReg`, `SetsFlags`,
`OnlyCompletes` and `TakesFault` (Sys2Proof/Safety.lean) each name every field of the state: they are whole frames. The block
has no memory of its own; every byte of the aperture is a view of these fields. -/

/-! ### The words of the statements -/

namespace Sys2Proof.Claims

open Sys2Proof.Machine

/-- A row of the opcode map: with a word of the row in PEND, the engine step runs `build` of that word; with any other word of
the row's opcode, a reserved-zero field is not zero and the step completes with ILLEGAL, code 1 (30_encoding.md R83, R85,
R86, R89). -/
def RowRuns (pattern mask : Word) (build : Word → Instr) : Prop :=
  ∀ s : State,
    (s.pend.word &&& mask = pattern →
      decode s.pend.word = .ok (build s.pend.word) ∧ engineStep s = exec (build s.pend.word) s) ∧
    (opField s.pend.word = opField pattern → s.pend.word &&& mask ≠ pattern →
      ∃ t, engineStep s = .next t ∧ TakesFault s t 1#4)

/-- W is in 1..MAXW (30_encoding.md R88). -/
def WidthLegal (s : State) : Prop := 1 ≤ s.W ∧ s.W ≤ s.params.maxw

/-- The next event is the host access `a`. -/
def Presents (s : State) (a : Access) (rest : List Input) : Prop := s.inputs = .access a :: rest

/-- A read of aperture offset `off`. -/
def portRead (s : State) (off : Nat) (size : Size) : Access := .read (s.params.base + off) size

/-- A write of `v` to aperture offset `off`. -/
def portWrite (s : State) (off : Nat) (size : Size) (v : Word) : Access := .write (s.params.base + off) size v

/-- `s` after an access that changes nothing in the block and is answered with `r`. -/
def answered (s : State) (rest : List Input) (r : Response) : State :=
  { s with inputs := rest, responses := r :: s.responses }

/-- `s` after a refused access: ACCERR is 1 and nothing else in the block changes (20_memory.md R53). -/
def refused (s : State) (rest : List Input) (r : Response) : State :=
  { s with inputs := rest, responses := r :: s.responses, status := { s.status with accerr := true } }

/-- The next event resets the block: the reset input, or a CTRL write with a 1 in SRST (10_state.md R39). -/
def IsReset (s : State) (rest : List Input) : Prop :=
  s.inputs = .hardwareReset :: rest ∨ ∃ v : Word, v[1] = true ∧ Presents s (portWrite s 0x008 .word v) rest

/-- Every row of the reset table (10_state.md R39). -/
structure AtReset (t : State) : Prop where
  regs : ∀ r, t.reg r = 0
  ie : t.ie = false
  busy : t.busy = false
  done : t.status.done = false
  err : t.status.err = false
  ovr : t.status.ovr = false
  accerr : t.status.accerr = false
  eq : t.status.eq = false
  lt : t.status.lt = false
  errcode : t.status.errcode = 0#4
  cmd : t.cmd = 0x00000000#32
  width : t.width = 0#16
  rsel : t.rsel = 0
  pend : t.pend.valid = false ∧ t.pend.word = 0x00000000#32 ∧ t.pend.w = 0#16
  irq : t.irq = false
  id : registerWord t .id = 0x4D455850#32

/-- (s1, s2, s3) is the shift triple of W, row by row (42_prng.md R165). -/
def IsTriple (w s1 s2 s3 : Nat) : Prop :=
  (w ≤ 32 ∧ s1 = 13 ∧ s2 = 17 ∧ s3 = 5) ∨
  (32 < w ∧ w ≤ 64 ∧ s1 = 13 ∧ s2 = 7 ∧ s3 = 17) ∨
  (64 < w ∧ w ≤ 96 ∧ s1 = 10 ∧ s2 = 5 ∧ s3 = 26) ∨
  (96 < w ∧ w ≤ 128 ∧ s1 = 5 ∧ s2 = 14 ∧ s3 = 1) ∨
  (128 < w ∧ s1 = w / 3 ∧ s2 = w / 2 ∧ s3 = w / 5)

/-- The register a command writes when it succeeds (30_encoding.md R83, "used"). -/
def destination : Instr → Option RegIx
  | .nop => none
  | .mov rd _ => some rd
  | .ldi rd _ => some rd
  | .add rd _ _ => some rd
  | .mul rd _ _ => some rd
  | .mod rd _ _ => some rd
  | .mask rd _ => some rd
  | .shl rd _ _ => some rd
  | .shr rd _ _ => some rd
  | .xor rd _ _ => some rd
  | .cmp _ _ => none
  | .topbit rd _ => some rd
  | .modmul rd _ _ _ => some rd
  | .modsqr rd _ _ => some rd
  | .modexp rd _ _ _ => some rd
  | .lcg rd _ _ _ => some rd
  | .lcgd rd _ => some rd
  | .xsh rd _ => some rd

/-- The registers a command reads (30_encoding.md R83, "used"). -/
def sources : Instr → List RegIx
  | .nop => []
  | .mov _ rs1 => [rs1]
  | .ldi _ _ => []
  | .add _ rs1 rs2 => [rs1, rs2]
  | .mul _ rs1 rs2 => [rs1, rs2]
  | .mod _ rs1 rs2 => [rs1, rs2]
  | .mask _ rs1 => [rs1]
  | .shl _ rs1 _ => [rs1]
  | .shr _ rs1 _ => [rs1]
  | .xor _ rs1 rs2 => [rs1, rs2]
  | .cmp rs1 rs2 => [rs1, rs2]
  | .topbit _ rs1 => [rs1]
  | .modmul _ rs1 rs2 rs3 => [rs1, rs2, rs3]
  | .modsqr _ rs1 rs2 => [rs1, rs2]
  | .modexp _ rs1 rs2 rs3 => [rs1, rs2, rs3]
  | .lcg _ rs1 rs2 rs3 => [rs1, rs2, rs3]
  | .lcgd _ rs1 => [rs1]
  | .xsh _ rs1 => [rs1]

/-- The W-commands (30_encoding.md R88). -/
def IsWCommand : Instr → Prop
  | .mask _ _ => True
  | .shl _ _ _ => True
  | .shr _ _ _ => True
  | .topbit _ _ => True
  | .lcg _ _ _ _ => True
  | .lcgd _ _ => True
  | .xsh _ _ => True
  | _ => False

/-- R[rs1] must be below 2^W (42_prng.md R160). -/
def RangedOperand (r : RegIx) : Instr → Prop
  | .topbit _ rs1 => r = rs1
  | .lcg _ rs1 _ _ => r = rs1
  | .lcgd _ rs1 => r = rs1
  | .xsh _ rs1 => r = rs1
  | _ => False

/-- `r` is the modulus register (60_exceptions.md R211). -/
def ModulusOperand (r : RegIx) : Instr → Prop
  | .mod _ _ rs2 => r = rs2
  | .modsqr _ _ rs2 => r = rs2
  | .modmul _ _ _ rs3 => r = rs3
  | .modexp _ _ _ rs3 => r = rs3
  | _ => False

/-- `v` is the exact result of ADD or MUL (60_exceptions.md R211). -/
def ExactValue (s : State) (v : Nat) : Instr → Prop
  | .add _ rs1 rs2 => v = s.reg rs1 + s.reg rs2
  | .mul _ rs1 rs2 => v = s.reg rs1 * s.reg rs2
  | _ => False

/-- Check 2 of the priority list fails: a W-command with W outside 1..MAXW (60_exceptions.md R215). -/
def WidthFails (i : Instr) (s : State) : Prop := IsWCommand i ∧ ¬WidthLegal s

/-- Check 3 fails: the state value is at or above 2^W. -/
def RangeFails (i : Instr) (s : State) : Prop := ∃ r, RangedOperand r i ∧ 2 ^ s.W ≤ s.reg r

/-- Check 4 fails: the modulus register holds 0. -/
def ModulusFails (i : Instr) (s : State) : Prop := ∃ r, ModulusOperand r i ∧ s.reg r = 0

/-- Check 5 fails: the exact result is too wide. -/
def ExactFails (i : Instr) (s : State) : Prop := ∃ v, ExactValue s v i ∧ 2 ^ s.params.regBits ≤ v

/-- The three sub-steps of XSH on a state `x` at width `w`, with the shift amounts given, each on the result of the one before
(42_prng.md R166). -/
def threeSubSteps (w s1 s2 s3 x : Nat) : Nat :=
  let t1 := x ^^^ (x * 2 ^ s1 % 2 ^ w)
  let t2 := t1 ^^^ (t1 / 2 ^ s2 % 2 ^ w)
  t2 ^^^ (t2 * 2 ^ s3 % 2 ^ w)

/-- The next event is the engine's turn: it heads the inputs, or (the model's choice, log entry 3) none are left. -/
def EnginesTurn (s : State) : Prop := s.inputs = [] ∨ ∃ rest, s.inputs = .engineTurn :: rest

/-- The block accepts the next CMD write (20_memory.md R54), and WIDTH holds a legal W (30_encoding.md R88). -/
def ReadyAtLegalWidth (s : State) : Prop :=
  s.busy = false ∧ s.status.err = false ∧ 1 ≤ s.width.toNat ∧ s.width.toNat ≤ s.params.maxw

/-- From `s` with `schedule` to come, `n` steps take all of it but `rest` and leave an idle block without ERR, in which `R[rd]`
is `v` and every other register is as in `s`. -/
def RunLeaves (s : State) (schedule rest : List Input) (n : Nat) (rd : RegIx) (v : Nat) : Prop :=
  ∃ t, Host.Core.run Sys2Proof.core n { s with inputs := schedule } = .next t ∧ t.inputs = rest ∧
    t.busy = false ∧ t.status.err = false ∧ t.reg rd = v ∧ ∀ r, r ≠ rd → t.reg r = s.reg r

end Sys2Proof.Claims

open Sys2Proof Sys2Proof.Machine Sys2Proof.Claims

/-! ### Support commands -/

/-- 43_support.md R190. -/
def Obligations.NopOnlyCompletes : Prop :=
  RowRuns 0x00000000#32 0xFFFFFFFF#32 (fun _ => .nop) ∧
  ∀ s : State, ∃ t, exec .nop s = .next t ∧ OnlyCompletes s t

/-- 43_support.md R191. -/
def Obligations.MovCopiesRegister : Prop :=
  RowRuns 0x04000000#32 0xFC03FFFF#32 (fun w => .mov (rdField w) (rs1Field w)) ∧
  ∀ (rd rs1 : RegIx) (s : State), ∃ t, exec (.mov rd rs1) s = .next t ∧ WritesReg s t rd (s.reg rs1)

/-- 43_support.md R192. -/
def Obligations.LdiLoadsZeroExtendedImmediate : Prop :=
  RowRuns 0x08000000#32 0xFC3F0000#32 (fun w => .ldi (rdField w) (immField w)) ∧
  ∀ (rd : RegIx) (imm : Nat) (s : State), imm < 65536 →
    ∃ t, exec (.ldi rd imm) s = .next t ∧ WritesReg s t rd imm

/-- 43_support.md R193. -/
def Obligations.CmpSetsBothFlags : Prop :=
  RowRuns 0x28000000#32 0xFFC03FFF#32 (fun w => .cmp (rs1Field w) (rs2Field w)) ∧
  ∀ (rs1 rs2 : RegIx) (s : State),
    ∃ t, exec (.cmp rs1 rs2) s = .next t ∧ SetsFlags s t (s.reg rs1 = s.reg rs2) (s.reg rs1 < s.reg rs2)

/-! ### Big-integer substrate -/

/-- 40_bigint.md R101. -/
def Obligations.AddWritesExactSumOrOverflows : Prop :=
  RowRuns 0x0C000000#32 0xFC003FFF#32 (fun w => .add (rdField w) (rs1Field w) (rs2Field w)) ∧
  ∀ (rd rs1 rs2 : RegIx) (s : State),
    (s.reg rs1 + s.reg rs2 < 2 ^ s.params.regBits →
      ∃ t, exec (.add rd rs1 rs2) s = .next t ∧ WritesReg s t rd (s.reg rs1 + s.reg rs2)) ∧
    (2 ^ s.params.regBits ≤ s.reg rs1 + s.reg rs2 →
      ∃ t, exec (.add rd rs1 rs2) s = .next t ∧ TakesFault s t 4#4)

/-- 40_bigint.md R102. -/
def Obligations.MulWritesExactProductOrOverflows : Prop :=
  RowRuns 0x10000000#32 0xFC003FFF#32 (fun w => .mul (rdField w) (rs1Field w) (rs2Field w)) ∧
  ∀ (rd rs1 rs2 : RegIx) (s : State),
    (s.reg rs1 * s.reg rs2 < 2 ^ s.params.regBits →
      ∃ t, exec (.mul rd rs1 rs2) s = .next t ∧ WritesReg s t rd (s.reg rs1 * s.reg rs2)) ∧
    (2 ^ s.params.regBits ≤ s.reg rs1 * s.reg rs2 →
      ∃ t, exec (.mul rd rs1 rs2) s = .next t ∧ TakesFault s t 4#4)

/-- 40_bigint.md R103. -/
def Obligations.ModWritesLeastRemainder : Prop :=
  RowRuns 0x14000000#32 0xFC003FFF#32 (fun w => .mod (rdField w) (rs1Field w) (rs2Field w)) ∧
  ∀ (rd rs1 rs2 : RegIx) (s : State),
    (s.reg rs2 ≠ 0 → ∃ v, v < s.reg rs2 ∧ (∃ q, s.reg rs1 = q * s.reg rs2 + v) ∧
      ∃ t, exec (.mod rd rs1 rs2) s = .next t ∧ WritesReg s t rd v) ∧
    (s.reg rs2 = 0 → ∃ t, exec (.mod rd rs1 rs2) s = .next t ∧ TakesFault s t 3#4)

/-- 40_bigint.md R104. -/
def Obligations.MaskReducesModTwoPowW : Prop :=
  RowRuns 0x18000000#32 0xFC03FFFF#32 (fun w => .mask (rdField w) (rs1Field w)) ∧
  ∀ (rd rs1 : RegIx) (s : State),
    (WidthLegal s → ∃ t, exec (.mask rd rs1) s = .next t ∧ WritesReg s t rd (s.reg rs1 % 2 ^ s.W)) ∧
    (¬WidthLegal s → ∃ t, exec (.mask rd rs1) s = .next t ∧ TakesFault s t 2#4)

/-- 40_bigint.md R105: the result as an arithmetic value. -/
def Obligations.ShlShiftsThenMasks : Prop :=
  RowRuns 0x1C000000#32 0xFC030000#32 (fun w => .shl (rdField w) (rs1Field w) (immField w)) ∧
  ∀ (rd rs1 : RegIx) (imm : Nat) (s : State), imm < 65536 →
    (WidthLegal s →
      ∃ t, exec (.shl rd rs1 imm) s = .next t ∧ WritesReg s t rd (s.reg rs1 * 2 ^ imm % 2 ^ s.W)) ∧
    (¬WidthLegal s → ∃ t, exec (.shl rd rs1 imm) s = .next t ∧ TakesFault s t 2#4)

/-- 40_bigint.md R106: the mask applies after the logical shift. -/
def Obligations.ShrShiftsThenMasks : Prop :=
  RowRuns 0x20000000#32 0xFC030000#32 (fun w => .shr (rdField w) (rs1Field w) (immField w)) ∧
  ∀ (rd rs1 : RegIx) (imm : Nat) (s : State), imm < 65536 →
    (WidthLegal s →
      ∃ t, exec (.shr rd rs1 imm) s = .next t ∧ WritesReg s t rd (s.reg rs1 / 2 ^ imm % 2 ^ s.W)) ∧
    (¬WidthLegal s → ∃ t, exec (.shr rd rs1 imm) s = .next t ∧ TakesFault s t 2#4)

/-- 40_bigint.md R107: bit by bit over the whole value, with no mask and no overflow. -/
def Obligations.XorIsBitwiseUnmasked : Prop :=
  RowRuns 0x24000000#32 0xFC003FFF#32 (fun w => .xor (rdField w) (rs1Field w) (rs2Field w)) ∧
  ∀ (rd rs1 rs2 : RegIx) (s : State),
    ∃ v, (∀ k, v.testBit k = ((s.reg rs1).testBit k != (s.reg rs2).testBit k)) ∧
      ∃ t, exec (.xor rd rs1 rs2) s = .next t ∧ WritesReg s t rd v

/-! ### Modular commands -/

/-- 41_modexp.md R140. -/
def Obligations.ModmulWritesResidueOfProduct : Prop :=
  RowRuns 0x40000000#32 0xFC0003FF#32 (fun w => .modmul (rdField w) (rs1Field w) (rs2Field w) (rs3Field w)) ∧
  ∀ (rd rs1 rs2 rs3 : RegIx) (s : State),
    (s.reg rs3 ≠ 0 → ∃ t, exec (.modmul rd rs1 rs2 rs3) s = .next t ∧
      WritesReg s t rd (s.reg rs1 * s.reg rs2 % s.reg rs3)) ∧
    (s.reg rs3 = 0 → ∃ t, exec (.modmul rd rs1 rs2 rs3) s = .next t ∧ TakesFault s t 3#4)

/-- 41_modexp.md R141. -/
def Obligations.ModsqrWritesResidueOfSquare : Prop :=
  RowRuns 0x44000000#32 0xFC003FFF#32 (fun w => .modsqr (rdField w) (rs1Field w) (rs2Field w)) ∧
  ∀ (rd rs1 rs2 : RegIx) (s : State),
    (s.reg rs2 ≠ 0 → ∃ t, exec (.modsqr rd rs1 rs2) s = .next t ∧
      WritesReg s t rd (s.reg rs1 ^ 2 % s.reg rs2)) ∧
    (s.reg rs2 = 0 → ∃ t, exec (.modsqr rd rs1 rs2) s = .next t ∧ TakesFault s t 3#4)

/-- 41_modexp.md R142: the exact power's residue, with 0**0 = 1, although the model squares repeatedly (R143). -/
def Obligations.ModexpWritesResidueOfExactPower : Prop :=
  RowRuns 0x48000000#32 0xFC0003FF#32 (fun w => .modexp (rdField w) (rs1Field w) (rs2Field w) (rs3Field w)) ∧
  ∀ (rd rs1 rs2 rs3 : RegIx) (s : State),
    (s.reg rs3 ≠ 0 → ∃ t, exec (.modexp rd rs1 rs2 rs3) s = .next t ∧
      WritesReg s t rd (s.reg rs1 ^ s.reg rs2 % s.reg rs3)) ∧
    (s.reg rs3 = 0 → ∃ t, exec (.modexp rd rs1 rs2 rs3) s = .next t ∧ TakesFault s t 3#4)

/-! ### Generator steps and candidate -/

/-- 42_prng.md R161, with the checks of R160 in their order. -/
def Obligations.LcgStepsState : Prop :=
  RowRuns 0x60000000#32 0xFC0003FF#32 (fun w => .lcg (rdField w) (rs1Field w) (rs2Field w) (rs3Field w)) ∧
  ∀ (rd rs1 rs2 rs3 : RegIx) (s : State),
    (WidthLegal s → s.reg rs1 < 2 ^ s.W → ∃ t, exec (.lcg rd rs1 rs2 rs3) s = .next t ∧
      WritesReg s t rd ((s.reg rs2 * s.reg rs1 + s.reg rs3) % 2 ^ s.W)) ∧
    (WidthLegal s → 2 ^ s.W ≤ s.reg rs1 → ∃ t, exec (.lcg rd rs1 rs2 rs3) s = .next t ∧ TakesFault s t 2#4) ∧
    (¬WidthLegal s → ∃ t, exec (.lcg rd rs1 rs2 rs3) s = .next t ∧ TakesFault s t 2#4)

/-- 42_prng.md R163, with the checks of R160 in their order. -/
def Obligations.LcgdStepsStateWithDefaults : Prop :=
  RowRuns 0x64000000#32 0xFC03FFFF#32 (fun w => .lcgd (rdField w) (rs1Field w)) ∧
  ∀ (rd rs1 : RegIx) (s : State),
    (WidthLegal s → s.reg rs1 < 2 ^ s.W → ∃ t, exec (.lcgd rd rs1) s = .next t ∧
      WritesReg s t rd ((1103515245 * s.reg rs1 + 12345) % 2 ^ s.W)) ∧
    (WidthLegal s → 2 ^ s.W ≤ s.reg rs1 → ∃ t, exec (.lcgd rd rs1) s = .next t ∧ TakesFault s t 2#4) ∧
    (¬WidthLegal s → ∃ t, exec (.lcgd rd rs1) s = .next t ∧ TakesFault s t 2#4)

/-- 42_prng.md R166 with the triple of R165 and the checks of R160: three sub-steps, each on the result before it. -/
def Obligations.XshRunsThreeSubSteps : Prop :=
  RowRuns 0x68000000#32 0xFC03FFFF#32 (fun w => .xsh (rdField w) (rs1Field w)) ∧
  ∀ (rd rs1 : RegIx) (s : State),
    (WidthLegal s → s.reg rs1 < 2 ^ s.W → ∀ s1 s2 s3 t0 t1 t2 t3 : Nat, IsTriple s.W s1 s2 s3 →
      t0 = s.reg rs1 →
      t1 = t0 ^^^ (t0 * 2 ^ s1 % 2 ^ s.W) →
      t2 = t1 ^^^ (t1 / 2 ^ s2 % 2 ^ s.W) →
      t3 = t2 ^^^ (t2 * 2 ^ s3 % 2 ^ s.W) →
      ∃ t, exec (.xsh rd rs1) s = .next t ∧ WritesReg s t rd t3) ∧
    (WidthLegal s → 2 ^ s.W ≤ s.reg rs1 → ∃ t, exec (.xsh rd rs1) s = .next t ∧ TakesFault s t 2#4) ∧
    (¬WidthLegal s → ∃ t, exec (.xsh rd rs1) s = .next t ∧ TakesFault s t 2#4)

/-- 42_prng.md R168: bit W-1 is set and every other bit is kept. -/
def Obligations.TopbitForcesTopBit : Prop :=
  RowRuns 0x2C000000#32 0xFC03FFFF#32 (fun w => .topbit (rdField w) (rs1Field w)) ∧
  ∀ (rd rs1 : RegIx) (s : State),
    (WidthLegal s → s.reg rs1 < 2 ^ s.W → ∃ v,
      (∀ k, v.testBit k = (decide (k = s.W - 1) || (s.reg rs1).testBit k)) ∧
      ∃ t, exec (.topbit rd rs1) s = .next t ∧ WritesReg s t rd v) ∧
    (WidthLegal s → 2 ^ s.W ≤ s.reg rs1 → ∃ t, exec (.topbit rd rs1) s = .next t ∧ TakesFault s t 2#4) ∧
    (¬WidthLegal s → ∃ t, exec (.topbit rd rs1) s = .next t ∧ TakesFault s t 2#4)

/-! ### Decoding and encoding -/

/-- Words of the spec's own examples (40_bigint.md to 43_support.md, "Example"). -/
def Obligations.DecodeReadsSpecExampleWords : Prop :=
  decode 0x0C48C000#32 = .ok (.add 1 2 3) ∧
  decode 0x1C480005#32 = .ok (.shl 1 2 5) ∧
  decode 0x48C04800#32 = .ok (.modexp 3 0 1 2) ∧
  decode 0x60448C00#32 = .ok (.lcg 1 1 2 3) ∧
  decode 0x280DC000#32 = .ok (.cmp 3 7) ∧
  decode 0x30000000#32 = .error (.reservedOpcode 0x0C#6) ∧
  decode 0x0C48C001#32 = .error (.reservedField "ADD")

/-- Decoding gives back every command that an encoding exists for, with every operand (30_encoding.md R80 to R83). -/
def Obligations.DecodeAfterEncode : Prop :=
  ∀ i : Instr, WellFormed i = true → decode (encode i) = .ok i

/-- Each command has one word: no bit of an accepted word is a don't-care (30_encoding.md R85). -/
def Obligations.EncodeAfterDecode : Prop :=
  ∀ (w : Word) (i : Instr), decode w = .ok i → encode i = w

/-- The rows of the opcode map never overlap (30_encoding.md R86). -/
def Obligations.OpcodeRowsNeverOverlap : Prop :=
  ∀ r ∈ opcodeRows, ∀ r' ∈ opcodeRows, ∀ w : Word,
    w &&& r.mask = r.pattern → w &&& r'.mask = r'.pattern → r.mnemonic = r'.mnemonic

/-- 30_encoding.md R89: every reserved opcode and every nonzero reserved-zero field completes with ILLEGAL, an idle block
accepts any word, and the only no-op is the word 0. -/
def Obligations.IllegalWordsCompleteWithIllegal : Prop :=
  (∀ s : State,
    (let op := (opField s.pend.word).toNat
     (0x0C ≤ op ∧ op ≤ 0x0F) ∨ (0x13 ≤ op ∧ op ≤ 0x17) ∨ (0x1B ≤ op ∧ op ≤ 0x3F)) ∨
    (∃ r ∈ opcodeRows, opField s.pend.word = opField r.pattern ∧ s.pend.word &&& r.mask ≠ r.pattern) →
    ∃ t, engineStep s = .next t ∧ TakesFault s t 1#4) ∧
  (∀ (s : State) (v : Word), s.busy = false → s.status.err = false →
    (s.issue v).busy = true ∧ (s.issue v).pend.word = v ∧ (s.issue v).cmd = v) ∧
  (∀ w : Word, decode w = .ok .nop ↔ w = 0x00000000#32)

/-! ### The engine step -/

/-- 30_encoding.md R86: a step whose turn is the engine's runs the decoded command if one is pending, and completes with ILLEGAL
if no row matches its word. Two parts are the model's: that the turn is taken from `inputs` and is the engine's when nothing is
left there (log entry 3, DESIGN CHOICE), and that the engine's turn leaves an idle block as it is (log entry 5, DEDUCED from R86
and 60_exceptions.md R236). -/
def Obligations.StepRunsDecodedCommand : Prop :=
  ∀ (s : State) (rest : List Input), (s.inputs = .engineTurn :: rest ∨ (s.inputs = [] ∧ rest = [])) →
    (s.busy = true → ∀ i, decode s.pend.word = .ok i → step s = exec i { s with inputs := rest }) ∧
    (s.busy = true → (∀ r ∈ opcodeRows, s.pend.word &&& r.mask ≠ r.pattern) →
      ∃ t, step s = .next t ∧ TakesFault { s with inputs := rest } t 1#4) ∧
    (s.busy = false → step s = .next { s with inputs := rest })

/-- 60_exceptions.md R215: one code, of the first check that fails, and no fault when every check passes. -/
def Obligations.FirstFailingCheckGivesTheCode : Prop :=
  (∀ s : State, (∀ r ∈ opcodeRows, s.pend.word &&& r.mask ≠ r.pattern) →
    ∃ t, engineStep s = .next t ∧ TakesFault s t 1#4) ∧
  ∀ (s : State) (i : Instr), decode s.pend.word = .ok i →
    ∃ t, engineStep s = .next t ∧
      (WidthFails i s → TakesFault s t 2#4) ∧
      (¬WidthFails i s → RangeFails i s → TakesFault s t 2#4) ∧
      (¬WidthFails i s → ¬RangeFails i s → ModulusFails i s → TakesFault s t 3#4) ∧
      (¬WidthFails i s → ¬RangeFails i s → ¬ModulusFails i s → ExactFails i s → TakesFault s t 4#4) ∧
      (¬WidthFails i s → ¬RangeFails i s → ¬ModulusFails i s → ¬ExactFails i s →
        t.status.err = s.status.err ∧ t.status.errcode = s.status.errcode)

/-- 60_exceptions.md R214: a fault is precise. -/
def Obligations.FaultCompletionIsPrecise : Prop :=
  ∀ s t : State, s.status.err = false → engineStep s = .next t → t.status.err = true →
    ∃ code : BitVec 4, 1 ≤ code.toNat ∧ code.toNat ≤ 4 ∧ TakesFault s t code

/-- 60_exceptions.md R213 and 30_encoding.md R87: every engine step writes one register, its destination, or the flags (CMP), or
nothing (NOP), or it is a fault completion, and changes nothing else. -/
def Obligations.EveryEngineStepIsOneCompletion : Prop :=
  ∀ s : State, ∃ t, engineStep s = .next t ∧
    ((∃ i rd v, decode s.pend.word = .ok i ∧ destination i = some rd ∧ WritesReg s t rd v) ∨
     (∃ rs1 rs2, decode s.pend.word = .ok (.cmp rs1 rs2) ∧
        SetsFlags s t (s.reg rs1 = s.reg rs2) (s.reg rs1 < s.reg rs2)) ∨
     (decode s.pend.word = .ok .nop ∧ OnlyCompletes s t) ∨
     (∃ code, TakesFault s t code))

/-- 10_state.md R24: the flags change only by the engine step of a pending CMP or by a reset. That the turn is the engine's when
no input is left is the model's (log entry 3). -/
def Obligations.OnlyCmpOrResetChangesFlags : Prop :=
  ∀ s t : State, step s = .next t → (t.status.eq ≠ s.status.eq ∨ t.status.lt ≠ s.status.lt) →
    (EnginesTurn s ∧ s.busy = true ∧ ∃ rs1 rs2, decode s.pend.word = .ok (.cmp rs1 rs2)) ∨ ∃ rest, IsReset s rest

/-- 20_memory.md R60, 10_state.md R20: a register changes only as the destination of the pending command at its engine step, by a
DATA write to the selected register of an idle block, or by a reset. That the turn is the engine's when no input is left is the
model's (log entry 3). -/
def Obligations.RegistersChangeOnlyThreeWays : Prop :=
  ∀ (s t : State) (r : RegIx), step s = .next t → t.reg r ≠ s.reg r →
    (EnginesTurn s ∧ s.busy = true ∧ ∃ i, decode s.pend.word = .ok i ∧ destination i = some r) ∨
    (s.busy = false ∧ r = s.rsel ∧ ∃ rest off v,
      Presents s (portWrite s off .word v) rest ∧ 0x1000 ≤ off ∧ off < 0x1000 + s.params.regBits / 8) ∨
    ∃ rest, IsReset s rest

/-- 20_memory.md R57: while BUSY = 1 no host access but a soft reset changes the running command's operands, word or W. -/
def Obligations.OperandsFixedWhileBusy : Prop :=
  ∀ (s t : State) (a : Access) (rest : List Input), Presents s a rest → s.busy = true → step s = .next t →
    (t.regs = s.regs ∧ t.pend = s.pend ∧ t.width = s.width ∧ t.cmd = s.cmd) ∨ IsReset s rest

/-- 00_scope.md R10: a command's result is a function of its source registers, of W where it is a W-command, and of the build
parameters: two states that agree on these get the same fault, the same value in the destination, the same flags. -/
def Obligations.ResultDependsOnNamedStateOnly : Prop :=
  ∀ (i : Instr) (s s' t t' : State), (∀ r ∈ sources i, s.reg r = s'.reg r) → (IsWCommand i → s.W = s'.W) →
    s.params = s'.params → s.status.err = false → s'.status.err = false →
    s.status.errcode = s'.status.errcode → exec i s = .next t → exec i s' = .next t' →
    t.status.err = t'.status.err ∧ t.status.errcode = t'.status.errcode ∧
    (∀ rd, destination i = some rd → t.status.err = false → t.reg rd = t'.reg rd) ∧
    (∀ rs1 rs2, i = .cmp rs1 rs2 → t.status.eq = t'.status.eq ∧ t.status.lt = t'.status.lt)

/-- 20_memory.md R50: a command stores to no byte of the aperture but those of STATUS and of the DATA window. -/
def Obligations.CommandsLeaveOtherApertureBytes : Prop :=
  ∀ (i : Instr) (s t : State) (off : Nat), exec i s = .next t → off < apertureSize →
    (off < 0x00C ∨ 0x010 ≤ off) → (off < 0x1000 ∨ 0x1000 + s.params.regBits / 8 ≤ off) →
    s.params.regBits % 32 = 0 → apertureByte t off = apertureByte s off

/-! ### Host accesses -/

/-- 20_memory.md R53. -/
def Obligations.WrongSizeOrAlignmentRefused : Prop :=
  ∀ (s : State) (off : Nat) (size : Size) (v : Word) (rest : List Input), off < apertureSize →
    (size ≠ .word ∨ off % 4 ≠ 0) →
    (Presents s (portRead s off size) rest → step s = .next (refused s rest (.readData 0x00000000#32))) ∧
    (Presents s (portWrite s off size v) rest → step s = .next (refused s rest .writeDone))

/-- 20_memory.md R54. -/
def Obligations.CmdWriteAcceptedOrDropped : Prop :=
  ∀ (s : State) (v : Word) (rest : List Input), Presents s (portWrite s 0x010 .word v) rest →
    (s.busy = false ∧ s.status.err = false →
      step s = .next { answered s rest .writeDone with
        pend := { valid := true, word := v, w := s.width }
        status := { s.status with done := false }
        cmd := v }) ∧
    (s.busy = true ∨ s.status.err = true →
      step s = .next { answered s rest .writeDone with status := { s.status with ovr := true } })

/-- 20_memory.md R55. -/
def Obligations.DataReadReturnsWordOfSelectedRegister : Prop :=
  ∀ (s : State) (i : Nat) (rest : List Input), s.params.Legal → i < s.params.regBits / 32 →
    Presents s (portRead s (0x1000 + 4 * i) .word) rest →
    (s.busy = true → step s = .next (refused s rest (.readData 0x00000000#32))) ∧
    (s.busy = false → ∃ w : Word, w.toNat = s.reg s.rsel / 2 ^ (32 * i) % 2 ^ 32 ∧
      step s = .next (answered s rest (.readData w)))

/-- 20_memory.md R56: exactly bits [32i+31:32i] of the selected register are replaced. -/
def Obligations.DataWriteReplacesExactlyOneWord : Prop :=
  ∀ (s : State) (i : Nat) (v : Word) (rest : List Input), s.params.Legal → i < s.params.regBits / 32 →
    Presents s (portWrite s (0x1000 + 4 * i) .word v) rest →
    (s.busy = true → step s = .next (refused s rest .writeDone)) ∧
    (s.busy = false → ∃ x,
      (∀ k, x.testBit k
        = if 32 * i ≤ k ∧ k < 32 * i + 32 then v.getLsbD (k - 32 * i) else (s.reg s.rsel).testBit k) ∧
      step s = .next { answered s rest .writeDone with regs := s.regs.set s.rsel x })

/-- 20_memory.md R52, R55, R56: what was written to a DATA word is read there, and the other words read as before. -/
def Obligations.DataReadAfterDataWrite : Prop :=
  ∀ (s t : State) (i j : Nat) (v : Word) (rest : List Input), s.params.Legal →
    i < s.params.regBits / 32 → j < s.params.regBits / 32 → s.busy = false →
    Presents s (portWrite s (0x1000 + 4 * i) .word v) rest → step s = .next t →
    (busRead t (0x1000 + 4 * j) .word).2 = if j = i then v else (busRead s (0x1000 + 4 * j) .word).2

/-- 20_memory.md R58. -/
def Obligations.ReservedOffsetsReadZeroIgnoreWrites : Prop :=
  ∀ (s : State) (off : Nat) (v : Word) (rest : List Input), off % 4 = 0 → off < apertureSize →
    ((0x01C ≤ off ∧ off < 0x1000) ∨ (0x1000 ≤ off ∧ 0x1000 + s.params.regBits / 8 ≤ off) →
      (Presents s (portRead s off .word) rest → step s = .next (answered s rest (.readData 0x00000000#32))) ∧
      (Presents s (portWrite s off .word v) rest → step s = .next (answered s rest .writeDone))) ∧
    (off = 0x000 ∨ off = 0x004 →
      Presents s (portWrite s off .word v) rest → step s = .next (answered s rest .writeDone))

/-- 20_memory.md R59: a read has a side effect only when it is refused, and then it sets ACCERR and returns 0. -/
def Obligations.ReadsHaveNoOtherSideEffect : Prop :=
  ∀ (s : State) (off : Nat) (size : Size) (rest : List Input), off < apertureSize →
    Presents s (portRead s off size) rest →
    if size ≠ .word ∨ off % 4 ≠ 0 ∨ (s.busy = true ∧ 0x1000 ≤ off ∧ off < 0x1000 + s.params.regBits / 8)
    then step s = .next (refused s rest (.readData 0x00000000#32))
    else ∃ w, step s = .next (answered s rest (.readData w))

/-- 10_state.md R26, R27. -/
def Obligations.IdAndParamAreHardwired : Prop :=
  ∀ (s : State) (rest : List Input),
    (Presents s (portRead s 0x000 .word) rest → step s = .next (answered s rest (.readData 0x4D455850#32))) ∧
    (s.params.Legal → Presents s (portRead s 0x004 .word) rest → ∃ w : Word,
      (w.extractLsb 15 0).toNat = s.params.maxw ∧ w.extractLsb 23 16 = 0x10#8 ∧ w.extractLsb 31 24 = 0x01#8 ∧
      (s.params.maxw = 4096 → w = 0x01101000#32) ∧
      step s = .next (answered s rest (.readData w))) ∧
    (∀ v, Presents s (portWrite s 0x000 .word v) rest ∨ Presents s (portWrite s 0x004 .word v) rest →
      step s = .next (answered s rest .writeDone))

/-- 10_state.md R28: IE is stored, SRST and the reserved bits read 0, in any state. -/
def Obligations.CtrlStoresInterruptEnable : Prop :=
  ∀ (s : State) (v : Word) (rest : List Input),
    (Presents s (portWrite s 0x008 .word v) rest → v[1] = false →
      step s = .next { answered s rest .writeDone with ie := v[0] }) ∧
    (Presents s (portWrite s 0x008 .word v) rest → v[1] = true → ∃ t, step s = .next t ∧ t.ie = false ∧ AtReset t) ∧
    (Presents s (portRead s 0x008 .word) rest →
      step s = .next (answered s rest (.readData (if s.ie then 1#32 else 0#32))))

/-- 10_state.md R29, 20_memory.md R57: the low 16 bits are stored as written, and a write is refused while BUSY = 1. -/
def Obligations.WidthStoresSixteenBits : Prop :=
  ∀ (s : State) (v : Word) (rest : List Input),
    (Presents s (portWrite s 0x014 .word v) rest → s.busy = false →
      step s = .next { answered s rest .writeDone with width := v.extractLsb 15 0 }) ∧
    (Presents s (portWrite s 0x014 .word v) rest → s.busy = true → step s = .next (refused s rest .writeDone)) ∧
    (Presents s (portRead s 0x014 .word) rest →
      step s = .next (answered s rest (.readData (s.width.zeroExtend 32))))

/-- 10_state.md R30: four bits are stored at any time, and nothing of the running command changes. -/
def Obligations.RselStoresFourBits : Prop :=
  ∀ (s : State) (v : Word) (rest : List Input),
    (Presents s (portWrite s 0x018 .word v) rest → ∃ r : RegIx, r.val = v.toNat % 16 ∧
      step s = .next { answered s rest .writeDone with rsel := r }) ∧
    (Presents s (portRead s 0x018 .word) rest →
      ∃ w : Word, w.toNat = s.rsel.val ∧ step s = .next (answered s rest (.readData w)))

/-- 10_state.md R31: where each field of STATUS stands. -/
def Obligations.StatusReadShowsEveryField : Prop :=
  ∀ (s : State) (rest : List Input), Presents s (portRead s 0x00C .word) rest →
    ∃ w : Word, step s = .next (answered s rest (.readData w)) ∧
      w[0] = s.busy ∧ w[1] = s.status.done ∧ w[2] = s.status.err ∧ w[3] = s.status.ovr ∧
      w[4] = s.status.accerr ∧ w[5] = s.status.eq ∧ w[6] = s.status.lt ∧ w[7] = false ∧
      w.extractLsb 11 8 = s.status.errcode ∧ w.extractLsb 31 12 = 0#20

/-- 10_state.md R32: the four write-1-to-clear fields, and nothing else, at any time. -/
def Obligations.StatusWriteClearsOnes : Prop :=
  ∀ (s : State) (v : Word) (rest : List Input), Presents s (portWrite s 0x00C .word v) rest →
    step s = .next { answered s rest .writeDone with
      status :=
        { done := if v[1] then false else s.status.done
          err := if v[2] then false else s.status.err
          ovr := if v[3] then false else s.status.ovr
          accerr := if v[4] then false else s.status.accerr
          eq := s.status.eq
          lt := s.status.lt
          errcode := if v[2] then 0#4 else s.status.errcode } }

/-- 10_state.md R33, 20_memory.md R54: an accepted write makes its word the read-back value; a dropped write, and every other step
but a reset, leaves the value; a read returns it at any time. -/
def Obligations.CmdReadsLastAcceptedWord : Prop :=
  ∀ (s : State) (rest : List Input),
    (Presents s (portRead s 0x010 .word) rest → step s = .next (answered s rest (.readData s.cmd))) ∧
    (∀ v : Word, Presents s (portWrite s 0x010 .word v) rest →
      (s.busy = false ∧ s.status.err = false → ∃ t, step s = .next t ∧ t.cmd = v) ∧
      (s.busy = true ∨ s.status.err = true → ∃ t, step s = .next t ∧ t.cmd = s.cmd)) ∧
    (∀ t, step s = .next t → t.cmd ≠ s.cmd →
      (∃ v r, Presents s (portWrite s 0x010 .word v) r ∧ s.busy = false ∧ s.status.err = false ∧ t.cmd = v) ∨
      ∃ r, IsReset s r)

/-- The model's reading of 10_state.md R38 and 20_memory.md R51 (log entry 6): an access outside the aperture is not the
block's. -/
def Obligations.AccessOutsideApertureLeavesBlock : Prop :=
  ∀ (s : State) (addr : Nat) (size : Size) (v : Word) (rest : List Input),
    (addr < s.params.base ∨ s.params.base + apertureSize ≤ addr) →
    (Presents s (.read addr size) rest ∨ Presents s (.write addr size v) rest) →
    step s = .next { s with inputs := rest }

/-- 10_state.md R35, 60_exceptions.md R217: the level line, what raises it and what lowers it. -/
def Obligations.InterruptFollowsDoneAndEnable : Prop :=
  (∀ s : State, s.irq = true ↔ s.status.done = true ∧ s.ie = true) ∧
  (∀ s t : State, engineStep s = .next t → (t.irq = true ↔ s.ie = true)) ∧
  (∀ (s t : State) (rest : List Input), step s = .next t →
    ((∃ v : Word, v[1] = true ∧ Presents s (portWrite s 0x00C .word v) rest) ∨
     (∃ v : Word, s.busy = false ∧ s.status.err = false ∧ Presents s (portWrite s 0x010 .word v) rest) ∨
     IsReset s rest) → t.irq = false)

/-! ### Reset -/

/-- 10_state.md R39: either reset, in any state, gives every piece of the block's state its value; so does the state after
reset. -/
def Obligations.EitherResetGivesTheResetTable : Prop :=
  (∀ (s : State) (rest : List Input), IsReset s rest →
    ∃ t, step s = .next t ∧ AtReset t ∧ t.params = s.params ∧ t.inputs = rest) ∧
  AtReset State.reset ∧ ∀ p : Params, AtReset (State.resetWith p)

/-- 70_reset_and_hazards.md R241: a soft reset abandons a pending command: no register or flag receives its result, DONE is not
set, IRQ is not raised, and the write completes normally. -/
def Obligations.SoftResetAbandonsPendingCommand : Prop :=
  ∀ (s : State) (v : Word) (rest : List Input), v[1] = true → Presents s (portWrite s 0x008 .word v) rest →
    ∃ t, step s = .next t ∧ t = { State.resetWith s.params with
        inputs := rest, responses := .writeDone :: s.responses } ∧ AtReset t

/-! ### Invariants and progress -/

/-- The invariant holds right after reset, for every legal choice of the parameters and whatever is scheduled. -/
def Obligations.InvariantHoldsAtReset : Prop :=
  State.Inv State.reset ∧
  ∀ (p : Params) (l : List Input), p.Legal → State.Inv { State.resetWith p with inputs := l }

/-- Every step keeps the invariant: the registers' bound (R21), the STATUS invariants of R31, the fault codes of R211, CMP's
exclusive flags (R193), and what PEND holds (R33, R34, R211). No step changes a build parameter (00_scope.md R6). -/
def Obligations.EveryStepKeepsInvariant : Prop :=
  (∀ s t : State, s.Inv → step s = .next t → t.Inv) ∧
  ∀ s t : State, step s = .next t → t.params = s.params

/-- 10_state.md R31, third invariant: ERR = 1 comes with DONE = 1 until the host clears DONE. -/
def Obligations.ErrKeepsDoneUntilHostClearsIt : Prop :=
  ∀ s t : State, step s = .next t → (s.status.err = true → s.status.done = true) →
    (t.status.err = true → t.status.done = true) ∨
    ∃ (v : Word) (rest : List Input), v[1] = true ∧ Presents s (portWrite s 0x00C .word v) rest

/-- 70_reset_and_hazards.md R247: the block never hangs on any input. -/
def Obligations.StepNeverStops : Prop :=
  ∀ s : State, ∃ t, step s = .next t

/-- 70_reset_and_hazards.md R247, R250, in the model's schedule (log entry 3): whatever the inputs, the run has a first state where
it has ended: no access is left and no command is pending. From there on it stays ended, and the final state changes only by a
hardware reset (60_exceptions.md R236), which comes after the end (log entry 17). All inputs are taken in the end. -/
def Obligations.EveryScheduleRunsToItsEnd : Prop :=
  (∀ s : State, ∃ n t, n ≤ s.inputs.length + 1 ∧ Host.Core.run Sys2Proof.core n s = .next t ∧ Ended t ∧
    ∀ m < n, ∀ u, Host.Core.run Sys2Proof.core m s = .next u → ¬Ended u) ∧
  (∀ s : State, ∃ t, Host.Core.run Sys2Proof.core (s.inputs.length + 1) s = .next t ∧ t.inputs = [] ∧ t.busy = false) ∧
  ∀ s t : State, Ended s → step s = .next t → Ended t ∧
    ((∃ rest, s.inputs = .hardwareReset :: rest) → t.finalState = (State.resetWith s.params).finalState) ∧
    ((∀ rest, s.inputs ≠ .hardwareReset :: rest) → t.finalState = s.finalState)

/-! ### Equivalences and sequences -/

/-- 41_modexp.md R144: MODEXP followed by k squarings in place is MODEXP with the exponent 2^k·d. Each command is issued to the
idle block by a CMD write that it accepts, and is then run, as the events of a schedule (log entry 3). -/
def Obligations.SquaringChainIsOneExponentiation : Prop :=
  ∀ (rd ra re rn : RegIx) (s : State) (k : Nat) (rest : List Input),
    s.busy = false → s.status.err = false → rd ≠ rn → s.reg rn ≠ 0 →
    RunLeaves s (runCommand s.params (.modexp rd ra re rn) ++ runTimes s.params (.modsqr rd rd rn) k rest) rest
      (2 + 2 * k) rd (s.reg ra ^ (2 ^ k * s.reg re) % s.reg rn)

/-- 42_prng.md R164, R23 of 10_state.md: from a seed below 2^W, the k-th LCGD, LCG or XSH in place holds step^k of the seed, which
is below 2^W. Each command is issued to the idle block by a CMD write that it accepts, and is then run, as the events of a
schedule (log entry 3). -/
def Obligations.GeneratorIteratesItsStep : Prop :=
  ∀ (r : RegIx) (s : State) (k : Nat) (rest : List Input), ReadyAtLegalWidth s → s.reg r < 2 ^ s.width.toNat →
    (∃ v, v = (fun x => (1103515245 * x + 12345) % 2 ^ s.width.toNat)^[k] (s.reg r) ∧ v < 2 ^ s.width.toNat ∧
      RunLeaves s (runTimes s.params (.lcgd r r) k rest) rest (2 * k) r v) ∧
    (∀ ra rc : RegIx, r ≠ ra → r ≠ rc →
      ∃ v, v = (fun x => (s.reg ra * x + s.reg rc) % 2 ^ s.width.toNat)^[k] (s.reg r) ∧ v < 2 ^ s.width.toNat ∧
        RunLeaves s (runTimes s.params (.lcg r r ra rc) k rest) rest (2 * k) r v) ∧
    (∀ s1 s2 s3 : Nat, IsTriple s.width.toNat s1 s2 s3 →
      ∃ v, v = (threeSubSteps s.width.toNat s1 s2 s3)^[k] (s.reg r) ∧ v < 2 ^ s.width.toNat ∧
        RunLeaves s (runTimes s.params (.xsh r r) k rest) rest (2 * k) r v)

/-- 41_modexp.md R141 and 42_prng.md R163: MODSQR is MODMUL of a register by itself, and LCGD is LCG with the built-in
constants in registers. -/
def Obligations.ShortFormsEqualLongForms : Prop :=
  (∀ (rd rs1 rs2 : RegIx) (s : State), exec (.modsqr rd rs1 rs2) s = exec (.modmul rd rs1 rs1 rs2) s) ∧
  (∀ (rd rs1 ra rc : RegIx) (s : State), s.reg ra = 1103515245 → s.reg rc = 12345 →
    exec (.lcgd rd rs1) s = exec (.lcg rd rs1 ra rc) s)

/-- 42_prng.md R167, R169: zero is a fixed point of XSH at every legal width, and every state is one when W ≤ 5. -/
def Obligations.XorshiftFixedPoints : Prop :=
  ∀ (rd rs1 : RegIx) (s : State), WidthLegal s →
    (s.reg rs1 = 0 → ∃ t, exec (.xsh rd rs1) s = .next t ∧ WritesReg s t rd 0) ∧
    (s.W ≤ 5 → s.reg rs1 < 2 ^ s.W → ∃ t, exec (.xsh rd rs1) s = .next t ∧ WritesReg s t rd (s.reg rs1))

/-- 42_prng.md R168, 10_state.md R23: the candidate's bit length is exactly W, and every generator step stays below 2^W. -/
def Obligations.CandidateHasBitLengthWStatesStayBelow : Prop :=
  ∀ (rd rs1 rs2 rs3 : RegIx) (s : State), WidthLegal s → s.reg rs1 < 2 ^ s.W →
    (∃ t, exec (.topbit rd rs1) s = .next t ∧ bitlen (t.reg rd) = s.W) ∧
    (∃ t, exec (.lcg rd rs1 rs2 rs3) s = .next t ∧ t.reg rd < 2 ^ s.W) ∧
    (∃ t, exec (.lcgd rd rs1) s = .next t ∧ t.reg rd < 2 ^ s.W) ∧
    (∃ t, exec (.xsh rd rs1) s = .next t ∧ t.reg rd < 2 ^ s.W)
end

