-- ==== Sys2Proof/Laws/Arith.lean ====
section
/-! SUPPORT. The arithmetic of the shared operations: the power by repeated squaring is the exact power, the words of a
register are its bits, and a generator step stays below 2^W. -/

namespace Sys2Proof.Laws

open Sys2Proof.Machine

/-! ### Bit length (00_scope.md R8) -/

theorem lt_two_pow_bitlen (x : Nat) : x < 2 ^ bitlen x := by
  unfold bitlen
  split
  · next h => simp [h]
  · exact Nat.lt_log2_self

/-! ### Modular power (41_modexp.md R142, R143) -/

theorem modPowBits_eq (b n k : Nat) : ∀ e, e < 2 ^ k → modPowBits b n k e = b ^ e % n := by
  induction k with
  | zero =>
    intro e he
    have : e = 0 := by simpa using he
    simp [modPowBits, this]
  | succ k ih =>
    intro e he
    have hhalf : e / 2 < 2 ^ k := by omega
    simp only [modPowBits, ih _ hhalf]
    have hsq : b ^ (e / 2) % n * (b ^ (e / 2) % n) % n = b ^ (2 * (e / 2)) % n := by
      rw [← Nat.mul_mod, ← pow_add, two_mul]
    split
    · next hodd =>
      have he2 : e = 2 * (e / 2) + 1 := by omega
      rw [hsq, Nat.mod_mul_mod, ← pow_succ, ← he2]
    · next heven =>
      have he2 : e = 2 * (e / 2) := by omega
      rw [hsq, ← he2]

/-- Repeated squaring gives the exact power's residue. -/
theorem modPow_eq (b e n : Nat) : modPow b e n = b ^ e % n :=
  modPowBits_eq b n (bitlen e) e (lt_two_pow_bitlen e)

/-! ### The words of a register (20_memory.md R52, R55, R56) -/

/-- Bit `j` of DATA word `i` is bit `32*i + j` of the value. -/
theorem dataWord_getLsbD (x i j : Nat) (hj : j < 32) : (dataWord x i).getLsbD j = x.testBit (32 * i + j) := by
  rw [dataWord, BitVec.getLsbD_ofNat]
  simp [hj, Nat.testBit_shiftRight]

theorem dataWord_toNat (x i : Nat) : (dataWord x i).toNat = x / 2 ^ (32 * i) % 2 ^ 32 := by
  simp [dataWord, Nat.shiftRight_eq_div_pow]

/-- The value after a DATA write, as its high part, the new word and its low part. -/
theorem replaceDataWord_eq (x i : Nat) (v : Word) :
    replaceDataWord x i v
      = (x / 2 ^ (32 * i + 32) * 2 ^ 32 + v.toNat) * 2 ^ (32 * i) + x % 2 ^ (32 * i) := by
  unfold replaceDataWord
  rw [dataWord_toNat, Nat.shiftLeft_eq, Nat.shiftLeft_eq, pow_add, ← Nat.div_div_eq_div_mul]
  have h1 := Nat.div_add_mod x (2 ^ (32 * i))
  have h2 := Nat.div_add_mod (x / 2 ^ (32 * i)) (2 ^ 32)
  generalize x / 2 ^ (32 * i) = q at *
  generalize hP : 2 ^ (32 * i) = P at *
  have h3 : x = (q / 2 ^ 32 * 2 ^ 32) * P + q % 2 ^ 32 * P + x % P := by
    rw [← Nat.add_mul, Nat.mul_comm (q / 2 ^ 32), h2, Nat.mul_comm q, h1]
  rw [Nat.add_mul]
  omega

/-- Bit `k` of the value after a DATA write: the written word's bit inside word `i`, the old bit outside it. -/
theorem replaceDataWord_testBit (x i k : Nat) (v : Word) :
    (replaceDataWord x i v).testBit k
      = if 32 * i ≤ k ∧ k < 32 * i + 32 then v.getLsbD (k - 32 * i) else x.testBit k := by
  rw [replaceDataWord_eq, Nat.mul_comm _ (2 ^ (32 * i)), Nat.testBit_two_pow_mul_add _ (Nat.mod_lt _ (by positivity))]
  split
  · next hlt =>
    rw [if_neg (by omega), Nat.testBit_mod_two_pow]
    simp [hlt]
  · next hge =>
    rw [Nat.mul_comm _ (2 ^ 32), Nat.testBit_two_pow_mul_add _ v.isLt]
    split
    · next hin => rw [if_pos (by omega), BitVec.testBit_toNat]
    · next hout =>
      rw [if_neg (by omega), Nat.testBit_div_two_pow]
      congr 1
      omega

/-- A DATA write into word `i` of a register of `n` words leaves a value of `n` words. -/
theorem replaceDataWord_lt (x i n : Nat) (v : Word) (hi : i < n) (hx : x < 2 ^ (32 * n)) :
    replaceDataWord x i v < 2 ^ (32 * n) := by
  apply Nat.lt_pow_two_of_testBit
  intro k hk
  rw [replaceDataWord_testBit, if_neg (by omega)]
  exact Nat.testBit_lt_two_pow (lt_of_lt_of_le hx (Nat.pow_le_pow_right (by omega) hk))

/-! ### Generator steps (42_prng.md R161, R166) -/

theorem lcgStep_lt (w a c x : Nat) : lcgStep w a c x < 2 ^ w := Nat.mod_lt _ (by positivity)

theorem xorShiftLeft_lt (w n t : Nat) (h : t < 2 ^ w) : xorShiftLeft w n t < 2 ^ w :=
  Nat.xor_lt_two_pow h (Nat.mod_lt _ (by positivity))

theorem xorShiftRight_lt (w n t : Nat) (h : t < 2 ^ w) : xorShiftRight w n t < 2 ^ w :=
  Nat.xor_lt_two_pow h (Nat.mod_lt _ (by positivity))

theorem xorshiftStep_lt (w x : Nat) (h : x < 2 ^ w) : xorshiftStep w x < 2 ^ w :=
  xorShiftLeft_lt _ _ _ (xorShiftRight_lt _ _ _ (xorShiftLeft_lt _ _ _ h))

end Sys2Proof.Laws
end

