-- ==== Sys2Proof/Laws/State.lean ====
section
/-! SUPPORT. One lemma per field of the state per update, so that no proof unfolds a record update. -/

namespace Sys2Proof.Laws

open Sys2Proof.Machine

variable (s : State)

/-! ### setReg -/

@[simp] theorem setReg_params (i : RegIx) (v : Nat) : (s.setReg i v).params = s.params := rfl
@[simp] theorem setReg_regs (i : RegIx) (v : Nat) : (s.setReg i v).regs = s.regs.set i v := rfl
@[simp] theorem setReg_ie (i : RegIx) (v : Nat) : (s.setReg i v).ie = s.ie := rfl
@[simp] theorem setReg_status (i : RegIx) (v : Nat) : (s.setReg i v).status = s.status := rfl
@[simp] theorem setReg_cmd (i : RegIx) (v : Nat) : (s.setReg i v).cmd = s.cmd := rfl
@[simp] theorem setReg_width (i : RegIx) (v : Nat) : (s.setReg i v).width = s.width := rfl
@[simp] theorem setReg_rsel (i : RegIx) (v : Nat) : (s.setReg i v).rsel = s.rsel := rfl
@[simp] theorem setReg_pend (i : RegIx) (v : Nat) : (s.setReg i v).pend = s.pend := rfl
@[simp] theorem setReg_inputs (i : RegIx) (v : Nat) : (s.setReg i v).inputs = s.inputs := rfl
@[simp] theorem setReg_responses (i : RegIx) (v : Nat) : (s.setReg i v).responses = s.responses := rfl
@[simp] theorem setReg_reg_same (i : RegIx) (v : Nat) : (s.setReg i v).reg i = v := by
  simp [State.reg, State.setReg]
theorem setReg_reg_ne (i : RegIx) (v : Nat) {r : RegIx} (h : r ≠ i) : (s.setReg i v).reg r = s.reg r := by
  have hne : (i : Nat) ≠ r := fun e => h (Fin.ext e.symm)
  simp [State.reg, State.setReg, hne]
@[simp] theorem setReg_busy (i : RegIx) (v : Nat) : (s.setReg i v).busy = s.busy := rfl

/-! ### finish -/

@[simp] theorem finish_params : (s.finish).params = s.params := rfl
@[simp] theorem finish_regs : (s.finish).regs = s.regs := rfl
@[simp] theorem finish_ie : (s.finish).ie = s.ie := rfl
@[simp] theorem finish_status : (s.finish).status = { s.status with done := true } := rfl
@[simp] theorem finish_cmd : (s.finish).cmd = s.cmd := rfl
@[simp] theorem finish_width : (s.finish).width = s.width := rfl
@[simp] theorem finish_rsel : (s.finish).rsel = s.rsel := rfl
@[simp] theorem finish_pend : (s.finish).pend = { s.pend with valid := false } := rfl
@[simp] theorem finish_inputs : (s.finish).inputs = s.inputs := rfl
@[simp] theorem finish_responses : (s.finish).responses = s.responses := rfl
@[simp] theorem finish_reg (r : RegIx) : (s.finish).reg r = s.reg r := rfl
@[simp] theorem finish_busy : (s.finish).busy = false := rfl

/-! ### setFlags -/

@[simp] theorem setFlags_params (e l : Bool) : (s.setFlags e l).params = s.params := rfl
@[simp] theorem setFlags_regs (e l : Bool) : (s.setFlags e l).regs = s.regs := rfl
@[simp] theorem setFlags_ie (e l : Bool) : (s.setFlags e l).ie = s.ie := rfl
@[simp] theorem setFlags_status (e l : Bool) : (s.setFlags e l).status = { s.status with eq := e, lt := l } := rfl
@[simp] theorem setFlags_cmd (e l : Bool) : (s.setFlags e l).cmd = s.cmd := rfl
@[simp] theorem setFlags_width (e l : Bool) : (s.setFlags e l).width = s.width := rfl
@[simp] theorem setFlags_rsel (e l : Bool) : (s.setFlags e l).rsel = s.rsel := rfl
@[simp] theorem setFlags_pend (e l : Bool) : (s.setFlags e l).pend = s.pend := rfl
@[simp] theorem setFlags_inputs (e l : Bool) : (s.setFlags e l).inputs = s.inputs := rfl
@[simp] theorem setFlags_responses (e l : Bool) : (s.setFlags e l).responses = s.responses := rfl
@[simp] theorem setFlags_reg (e l : Bool) (r : RegIx) : (s.setFlags e l).reg r = s.reg r := rfl
@[simp] theorem setFlags_busy (e l : Bool) : (s.setFlags e l).busy = s.busy := rfl

/-! ### recordFault -/

@[simp] theorem recordFault_params (c : FaultCode) : (s.recordFault c).params = s.params := rfl
@[simp] theorem recordFault_regs (c : FaultCode) : (s.recordFault c).regs = s.regs := rfl
@[simp] theorem recordFault_ie (c : FaultCode) : (s.recordFault c).ie = s.ie := rfl
@[simp] theorem recordFault_status (c : FaultCode) : (s.recordFault c).status = { s.status with err := true, errcode := c.code } := rfl
@[simp] theorem recordFault_cmd (c : FaultCode) : (s.recordFault c).cmd = s.cmd := rfl
@[simp] theorem recordFault_width (c : FaultCode) : (s.recordFault c).width = s.width := rfl
@[simp] theorem recordFault_rsel (c : FaultCode) : (s.recordFault c).rsel = s.rsel := rfl
@[simp] theorem recordFault_pend (c : FaultCode) : (s.recordFault c).pend = s.pend := rfl
@[simp] theorem recordFault_inputs (c : FaultCode) : (s.recordFault c).inputs = s.inputs := rfl
@[simp] theorem recordFault_responses (c : FaultCode) : (s.recordFault c).responses = s.responses := rfl
@[simp] theorem recordFault_reg (c : FaultCode) (r : RegIx) : (s.recordFault c).reg r = s.reg r := rfl
@[simp] theorem recordFault_busy (c : FaultCode) : (s.recordFault c).busy = s.busy := rfl

/-! ### completeFault -/

@[simp] theorem completeFault_params (c : FaultCode) : (s.completeFault c).params = s.params := rfl
@[simp] theorem completeFault_regs (c : FaultCode) : (s.completeFault c).regs = s.regs := rfl
@[simp] theorem completeFault_ie (c : FaultCode) : (s.completeFault c).ie = s.ie := rfl
@[simp] theorem completeFault_status (c : FaultCode) : (s.completeFault c).status = { s.status with err := true, errcode := c.code, done := true } := rfl
@[simp] theorem completeFault_cmd (c : FaultCode) : (s.completeFault c).cmd = s.cmd := rfl
@[simp] theorem completeFault_width (c : FaultCode) : (s.completeFault c).width = s.width := rfl
@[simp] theorem completeFault_rsel (c : FaultCode) : (s.completeFault c).rsel = s.rsel := rfl
@[simp] theorem completeFault_pend (c : FaultCode) : (s.completeFault c).pend = { s.pend with valid := false } := rfl
@[simp] theorem completeFault_inputs (c : FaultCode) : (s.completeFault c).inputs = s.inputs := rfl
@[simp] theorem completeFault_responses (c : FaultCode) : (s.completeFault c).responses = s.responses := rfl
@[simp] theorem completeFault_reg (c : FaultCode) (r : RegIx) : (s.completeFault c).reg r = s.reg r := rfl
@[simp] theorem completeFault_busy (c : FaultCode) : (s.completeFault c).busy = false := rfl

/-! ### writeStatus -/

@[simp] theorem writeStatus_params (v : Word) : (s.writeStatus v).params = s.params := rfl
@[simp] theorem writeStatus_regs (v : Word) : (s.writeStatus v).regs = s.regs := rfl
@[simp] theorem writeStatus_ie (v : Word) : (s.writeStatus v).ie = s.ie := rfl
@[simp] theorem writeStatus_status (v : Word) : (s.writeStatus v).status = s.status.clearOnes v := rfl
@[simp] theorem writeStatus_cmd (v : Word) : (s.writeStatus v).cmd = s.cmd := rfl
@[simp] theorem writeStatus_width (v : Word) : (s.writeStatus v).width = s.width := rfl
@[simp] theorem writeStatus_rsel (v : Word) : (s.writeStatus v).rsel = s.rsel := rfl
@[simp] theorem writeStatus_pend (v : Word) : (s.writeStatus v).pend = s.pend := rfl
@[simp] theorem writeStatus_inputs (v : Word) : (s.writeStatus v).inputs = s.inputs := rfl
@[simp] theorem writeStatus_responses (v : Word) : (s.writeStatus v).responses = s.responses := rfl
@[simp] theorem writeStatus_reg (v : Word) (r : RegIx) : (s.writeStatus v).reg r = s.reg r := rfl
@[simp] theorem writeStatus_busy (v : Word) : (s.writeStatus v).busy = s.busy := rfl

/-! ### refuseAccess -/

@[simp] theorem refuseAccess_params : (s.refuseAccess).params = s.params := rfl
@[simp] theorem refuseAccess_regs : (s.refuseAccess).regs = s.regs := rfl
@[simp] theorem refuseAccess_ie : (s.refuseAccess).ie = s.ie := rfl
@[simp] theorem refuseAccess_status : (s.refuseAccess).status = { s.status with accerr := true } := rfl
@[simp] theorem refuseAccess_cmd : (s.refuseAccess).cmd = s.cmd := rfl
@[simp] theorem refuseAccess_width : (s.refuseAccess).width = s.width := rfl
@[simp] theorem refuseAccess_rsel : (s.refuseAccess).rsel = s.rsel := rfl
@[simp] theorem refuseAccess_pend : (s.refuseAccess).pend = s.pend := rfl
@[simp] theorem refuseAccess_inputs : (s.refuseAccess).inputs = s.inputs := rfl
@[simp] theorem refuseAccess_responses : (s.refuseAccess).responses = s.responses := rfl
@[simp] theorem refuseAccess_reg (r : RegIx) : (s.refuseAccess).reg r = s.reg r := rfl
@[simp] theorem refuseAccess_busy : (s.refuseAccess).busy = s.busy := rfl

/-! ### dropCommand -/

@[simp] theorem dropCommand_params : (s.dropCommand).params = s.params := rfl
@[simp] theorem dropCommand_regs : (s.dropCommand).regs = s.regs := rfl
@[simp] theorem dropCommand_ie : (s.dropCommand).ie = s.ie := rfl
@[simp] theorem dropCommand_status : (s.dropCommand).status = { s.status with ovr := true } := rfl
@[simp] theorem dropCommand_cmd : (s.dropCommand).cmd = s.cmd := rfl
@[simp] theorem dropCommand_width : (s.dropCommand).width = s.width := rfl
@[simp] theorem dropCommand_rsel : (s.dropCommand).rsel = s.rsel := rfl
@[simp] theorem dropCommand_pend : (s.dropCommand).pend = s.pend := rfl
@[simp] theorem dropCommand_inputs : (s.dropCommand).inputs = s.inputs := rfl
@[simp] theorem dropCommand_responses : (s.dropCommand).responses = s.responses := rfl
@[simp] theorem dropCommand_reg (r : RegIx) : (s.dropCommand).reg r = s.reg r := rfl
@[simp] theorem dropCommand_busy : (s.dropCommand).busy = s.busy := rfl

/-! ### accept -/

@[simp] theorem accept_params (v : Word) : (s.accept v).params = s.params := rfl
@[simp] theorem accept_regs (v : Word) : (s.accept v).regs = s.regs := rfl
@[simp] theorem accept_ie (v : Word) : (s.accept v).ie = s.ie := rfl
@[simp] theorem accept_status (v : Word) : (s.accept v).status = { s.status with done := false } := rfl
@[simp] theorem accept_cmd (v : Word) : (s.accept v).cmd = v := rfl
@[simp] theorem accept_width (v : Word) : (s.accept v).width = s.width := rfl
@[simp] theorem accept_rsel (v : Word) : (s.accept v).rsel = s.rsel := rfl
@[simp] theorem accept_pend (v : Word) : (s.accept v).pend = { valid := true, word := v, w := s.width } := rfl
@[simp] theorem accept_inputs (v : Word) : (s.accept v).inputs = s.inputs := rfl
@[simp] theorem accept_responses (v : Word) : (s.accept v).responses = s.responses := rfl
@[simp] theorem accept_reg (v : Word) (r : RegIx) : (s.accept v).reg r = s.reg r := rfl
@[simp] theorem accept_busy (v : Word) : (s.accept v).busy = true := rfl

/-! ### respond -/

@[simp] theorem respond_params (r : Response) : (s.respond r).params = s.params := rfl
@[simp] theorem respond_regs (r : Response) : (s.respond r).regs = s.regs := rfl
@[simp] theorem respond_ie (r : Response) : (s.respond r).ie = s.ie := rfl
@[simp] theorem respond_status (r : Response) : (s.respond r).status = s.status := rfl
@[simp] theorem respond_cmd (r : Response) : (s.respond r).cmd = s.cmd := rfl
@[simp] theorem respond_width (r : Response) : (s.respond r).width = s.width := rfl
@[simp] theorem respond_rsel (r : Response) : (s.respond r).rsel = s.rsel := rfl
@[simp] theorem respond_pend (r : Response) : (s.respond r).pend = s.pend := rfl
@[simp] theorem respond_inputs (r : Response) : (s.respond r).inputs = s.inputs := rfl
@[simp] theorem respond_responses (r : Response) : (s.respond r).responses = r :: s.responses := rfl
@[simp] theorem respond_reg (r : Response) (i : RegIx) : (s.respond r).reg i = s.reg i := rfl
@[simp] theorem respond_busy (r : Response) : (s.respond r).busy = s.busy := rfl

/-! ### writeRsel -/

@[simp] theorem writeRsel_params (v : Word) : (s.writeRsel v).params = s.params := rfl
@[simp] theorem writeRsel_regs (v : Word) : (s.writeRsel v).regs = s.regs := rfl
@[simp] theorem writeRsel_ie (v : Word) : (s.writeRsel v).ie = s.ie := rfl
@[simp] theorem writeRsel_status (v : Word) : (s.writeRsel v).status = s.status := rfl
@[simp] theorem writeRsel_cmd (v : Word) : (s.writeRsel v).cmd = s.cmd := rfl
@[simp] theorem writeRsel_width (v : Word) : (s.writeRsel v).width = s.width := rfl
@[simp] theorem writeRsel_rsel (v : Word) : (s.writeRsel v).rsel = (v.extractLsb 3 0).toFin := rfl
@[simp] theorem writeRsel_pend (v : Word) : (s.writeRsel v).pend = s.pend := rfl
@[simp] theorem writeRsel_inputs (v : Word) : (s.writeRsel v).inputs = s.inputs := rfl
@[simp] theorem writeRsel_responses (v : Word) : (s.writeRsel v).responses = s.responses := rfl
@[simp] theorem writeRsel_reg (v : Word) (r : RegIx) : (s.writeRsel v).reg r = s.reg r := rfl
@[simp] theorem writeRsel_busy (v : Word) : (s.writeRsel v).busy = s.busy := rfl

/-! ### toReset -/

@[simp] theorem toReset_params : s.toReset.params = s.params := rfl
@[simp] theorem toReset_regs : s.toReset.regs = Vector.replicate 16 0 := rfl
@[simp] theorem toReset_ie : s.toReset.ie = false := rfl
@[simp] theorem toReset_status : s.toReset.status =
    { done := false, err := false, ovr := false, accerr := false, eq := false, lt := false, errcode := 0#4 } := rfl
@[simp] theorem toReset_cmd : s.toReset.cmd = 0#32 := rfl
@[simp] theorem toReset_width : s.toReset.width = 0#16 := rfl
@[simp] theorem toReset_rsel : s.toReset.rsel = 0 := rfl
@[simp] theorem toReset_pend : s.toReset.pend = { valid := false, word := 0#32, w := 0#16 } := rfl
@[simp] theorem toReset_inputs : s.toReset.inputs = s.inputs := rfl
@[simp] theorem toReset_responses : s.toReset.responses = s.responses := rfl
@[simp] theorem toReset_busy : s.toReset.busy = false := rfl
@[simp] theorem toReset_reg (r : RegIx) : s.toReset.reg r = 0 := by
  simp [State.reg]
@[simp] theorem resetWith_reg (p : Params) (r : RegIx) : (State.resetWith p).reg r = 0 := by
  simp [State.reg, State.resetWith]

/-! ### The inputs alone -/

@[simp] theorem withInputs_reg (l : List Input) (r : RegIx) : State.reg { s with inputs := l } r = s.reg r := rfl
@[simp] theorem withInputs_busy (l : List Input) : State.busy { s with inputs := l } = s.busy := rfl

/-! ### The end of a run (70_reset_and_hazards.md R250) -/

@[simp] theorem finalState_regs : s.finalState.regs = s.regs := rfl
@[simp] theorem finalState_status : s.finalState.status = statusWord s := rfl
@[simp] theorem finalState_ctrl : s.finalState.ctrl = ctrlWord s := rfl
@[simp] theorem finalState_width : s.finalState.width = widthWord s := rfl
@[simp] theorem finalState_rsel : s.finalState.rsel = rselWord s := rfl
@[simp] theorem finalState_cmd : s.finalState.cmd = s.cmd := rfl
@[simp] theorem withInputs_finalState (l : List Input) : State.finalState { s with inputs := l } = s.finalState := rfl
@[simp] theorem toReset_finalState : s.toReset.finalState = (State.resetWith s.params).finalState := rfl

/-- With no input left there is no access left. -/
theorem hostDone_of_noInput {s : State} (h : s.inputs = []) : HostDone s := by
  simp [HostDone, h]

/-- What is left after an input is taken holds no access if nothing did before. -/
theorem hostDone_tail {s t : State} {x : Input} (h : HostDone s) (hs : s.inputs = x :: t.inputs) : HostDone t := by
  intro a ha
  exact h a (by rw [hs]; exact List.mem_cons_of_mem _ ha)

/-! ### Status.clearOnes (10_state.md R32) -/

@[simp] theorem clearOnes_eq (t : Status) (v : Word) : (t.clearOnes v).eq = t.eq := rfl
@[simp] theorem clearOnes_lt (t : Status) (v : Word) : (t.clearOnes v).lt = t.lt := rfl
@[simp] theorem clearOnes_done (t : Status) (v : Word) : (t.clearOnes v).done = (t.done && !v[1]) := rfl
@[simp] theorem clearOnes_err (t : Status) (v : Word) : (t.clearOnes v).err = (t.err && !v[2]) := rfl
@[simp] theorem clearOnes_ovr (t : Status) (v : Word) : (t.clearOnes v).ovr = (t.ovr && !v[3]) := rfl
@[simp] theorem clearOnes_accerr (t : Status) (v : Word) : (t.clearOnes v).accerr = (t.accerr && !v[4]) := rfl
theorem clearOnes_errcode (t : Status) (v : Word) :
    (t.clearOnes v).errcode = if v[2] then 0#4 else t.errcode := rfl

end Sys2Proof.Laws
end

