-- ==== Sys2Proof/Laws/Ops.lean ====
section
/-! SUPPORT. What each shared operation can do, once: completion with each result, the operand checks, acceptance. -/

namespace Sys2Proof.Laws

open Sys2Proof.Machine

variable (s : State)

/-! ### Completion (60_exceptions.md R213, R214) -/

theorem complete_write (rd : RegIx) (v : Nat) : WritesReg s (s.complete (.write rd v)) rd v where
  busy := rfl
  done := rfl
  params := rfl
  ie := rfl
  ovr := rfl
  accerr := rfl
  cmd := rfl
  width := rfl
  rsel := rfl
  pend_word := rfl
  pend_w := rfl
  inputs := rfl
  responses := rfl
  written := by simp [State.complete]
  others := fun r h => by simp [State.complete, setReg_reg_ne s rd v h]
  eq := rfl
  lt := rfl
  err := rfl
  errcode := rfl

theorem complete_flags (e l : Bool) : SetsFlags s (s.complete (.flags e l)) (e = true) (l = true) where
  busy := rfl
  done := rfl
  params := rfl
  ie := rfl
  ovr := rfl
  accerr := rfl
  cmd := rfl
  width := rfl
  rsel := rfl
  pend_word := rfl
  pend_w := rfl
  inputs := rfl
  responses := rfl
  regs := fun _ => rfl
  eq_iff := Iff.rfl
  lt_iff := Iff.rfl
  err := rfl
  errcode := rfl

theorem complete_nothing : OnlyCompletes s (s.complete .nothing) where
  busy := rfl
  done := rfl
  params := rfl
  ie := rfl
  ovr := rfl
  accerr := rfl
  cmd := rfl
  width := rfl
  rsel := rfl
  pend_word := rfl
  pend_w := rfl
  inputs := rfl
  responses := rfl
  regs := fun _ => rfl
  eq := rfl
  lt := rfl
  err := rfl
  errcode := rfl

theorem complete_fault (c : FaultCode) : TakesFault s (s.complete (.fault c)) c.code where
  busy := rfl
  done := rfl
  params := rfl
  ie := rfl
  ovr := rfl
  accerr := rfl
  cmd := rfl
  width := rfl
  rsel := rfl
  pend_word := rfl
  pend_w := rfl
  inputs := rfl
  responses := rfl
  regs := fun _ => rfl
  eq := rfl
  lt := rfl
  err := rfl
  errcode := rfl

/-! ### The operand checks (30_encoding.md R88; 42_prng.md R160; 60_exceptions.md R211) -/

theorem withWidth_legal {k : Nat → Result} (h : 1 ≤ s.W ∧ s.W ≤ s.params.maxw) : s.withWidth k = k s.W :=
  if_pos h

theorem withWidth_illegal {k : Nat → Result} (h : ¬(1 ≤ s.W ∧ s.W ≤ s.params.maxw)) :
    s.withWidth k = .fault .invalidParam :=
  if_neg h

theorem withRanged_legal {k : Nat → Nat → Result} {rs1 : RegIx} (h : 1 ≤ s.W ∧ s.W ≤ s.params.maxw)
    (hx : s.reg rs1 < 2 ^ s.W) : s.withRanged rs1 k = k s.W (s.reg rs1) := by
  simp only [State.withRanged]
  rw [withWidth_legal s h, if_neg (by omega)]

theorem withRanged_badWidth {k : Nat → Nat → Result} {rs1 : RegIx} (h : ¬(1 ≤ s.W ∧ s.W ≤ s.params.maxw)) :
    s.withRanged rs1 k = .fault .invalidParam :=
  withWidth_illegal s h

theorem withRanged_outOfRange {k : Nat → Nat → Result} {rs1 : RegIx} (h : 1 ≤ s.W ∧ s.W ≤ s.params.maxw)
    (hx : 2 ^ s.W ≤ s.reg rs1) : s.withRanged rs1 k = .fault .invalidParam := by
  simp only [State.withRanged]
  rw [withWidth_legal s h, if_pos hx]

theorem withModulus_zero {k : Nat → Result} : withModulus 0 k = .fault .divZero := rfl

theorem withModulus_pos {n : Nat} {k : Nat → Result} (h : n ≠ 0) : withModulus n k = k n := if_neg h

theorem exactResult_fits {b v : Nat} {rd : RegIx} (h : v < 2 ^ b) : exactResult b rd v = .write rd v :=
  if_neg (by omega)

theorem exactResult_overflow {b v : Nat} {rd : RegIx} (h : 2 ^ b ≤ v) : exactResult b rd v = .fault .overflow :=
  if_pos h

/-! ### Flags (43_support.md R193) -/

@[simp] theorem flagEq_iff (x y : Nat) : flagEq x y = true ↔ x = y := by simp [flagEq]

@[simp] theorem flagLt_iff (x y : Nat) : flagLt x y = true ↔ x < y := by simp [flagLt]

/-! ### Acceptance (20_memory.md R54) -/

theorem issue_accepted (v : Word) (h : s.busy = false ∧ s.status.err = false) : s.issue v = s.accept v := if_pos h

theorem issue_dropped (v : Word) (h : s.busy = true ∨ s.status.err = true) : s.issue v = s.dropCommand := by
  refine if_neg fun hn => ?_
  cases h with
  | inl h => simp [h] at hn
  | inr h => simp [h] at hn

end Sys2Proof.Laws
end

