-- ==== Sys2Proof/Laws/Bus.lean ====
section
/-! SUPPORT. What a host access can do, once (20_memory.md R53 to R59). -/

namespace Sys2Proof.Laws

open Sys2Proof.Machine

variable (s : State)

/-! ### Where an access goes -/

theorem portOffset_inside (p : Params) {off : Nat} (h : off < apertureSize) :
    portOffset p (p.base + off) = some off := by
  simp [portOffset, h]

theorem portOffset_some {p : Params} {addr off : Nat} (h : portOffset p addr = some off) :
    addr = p.base + off ∧ off < apertureSize := by
  unfold portOffset at h
  split at h
  · simp only [Option.some.injEq] at h
    omega
  · exact absurd h (by simp)

theorem hostAccess_read {addr off : Nat} {size : Size} (h : portOffset s.params addr = some off) :
    hostAccess (.read addr size) s = (busRead s off size).1.respond (.readData (busRead s off size).2) := by
  simp [hostAccess, h]

theorem hostAccess_write {addr off : Nat} {size : Size} {v : Word} (h : portOffset s.params addr = some off) :
    hostAccess (.write addr size v) s = (busWrite s off size v).respond .writeDone := by
  simp [hostAccess, h]

theorem hostAccess_read_elsewhere {addr : Nat} {size : Size} (h : portOffset s.params addr = none) :
    hostAccess (.read addr size) s = s := by
  simp [hostAccess, h]

theorem hostAccess_write_elsewhere {addr : Nat} {size : Size} {v : Word} (h : portOffset s.params addr = none) :
    hostAccess (.write addr size v) s = s := by
  simp [hostAccess, h]

/-! ### Reads -/

theorem busRead_refused {off : Nat} {size : Size} (h : readRefused s off size = true) :
    busRead s off size = (s.refuseAccess, 0#32) := if_pos h

theorem busRead_accepted {off : Nat} {size : Size} (h : readRefused s off size = false) :
    busRead s off size = (s, registerWord s (target s.params off)) := by
  simp [busRead, h]

/-- A read leaves the state or sets ACCERR. -/
theorem busRead_state (off : Nat) (size : Size) :
    (busRead s off size).1 = s ∨ (busRead s off size).1 = s.refuseAccess := by
  unfold busRead
  split
  · exact .inr rfl
  · exact .inl rfl

/-! ### Writes -/

theorem busWrite_refused {off : Nat} {size : Size} {v : Word} (h : accepted off size = false) :
    busWrite s off size v = s.refuseAccess := by
  simp [busWrite, h]

theorem busWrite_accepted {off : Nat} {size : Size} {v : Word} (h : accepted off size = true) :
    busWrite s off size v = writeTarget s v (target s.params off) := by
  simp [busWrite, h]

theorem writeCtrl_reset {v : Word} (h : v[1] = true) : s.writeCtrl v = s.toReset := if_pos h

theorem writeCtrl_store {v : Word} (h : v[1] = false) :
    s.writeCtrl v = { s with ie := v[0] } := by
  simp [State.writeCtrl, h]

theorem writeWidth_busy {v : Word} (h : s.busy = true) : s.writeWidth v = s.refuseAccess := if_pos h

theorem writeWidth_idle {v : Word} (h : s.busy = false) :
    s.writeWidth v = { s with width := v.extractLsb 15 0 } := by
  simp [State.writeWidth, h]

theorem writeData_busy {i : Nat} {v : Word} (h : s.busy = true) : s.writeData i v = s.refuseAccess := if_pos h

theorem writeData_idle {i : Nat} {v : Word} (h : s.busy = false) :
    s.writeData i v = s.setReg s.rsel (replaceDataWord (s.reg s.rsel) i v) := by
  simp [State.writeData, h]

/-- A word of the DATA window is a word of the register. -/
theorem target_data {p : Params} {off i : Nat} (h : target p off = .data i) :
    0x1000 ≤ off ∧ off < 0x1000 + p.regBits / 8 ∧ i = (off - 0x1000) / 4 := by
  unfold target at h
  split_ifs at h with _ _ _ _ _ _ _ hd
  exact ⟨hd.1, hd.2, by simpa using h.symm⟩

end Sys2Proof.Laws
end

