-- ==== Sys2Proof/Laws/Decode.lean ====
section
/-! SUPPORT. What the decoder can answer, once: the command of a row that accepts the word, or a rejection when none does. -/

namespace Sys2Proof.Laws

theorem decode_ok {w : Word} {i : Instr} (h : decode w = .ok i) :
    ∃ r ∈ opcodeRows, r.accepts w = true ∧ r.build w = i := by
  unfold decode at h
  split at h
  · next r hr =>
    refine ⟨r, List.mem_of_find?_eq_some hr, ?_, by simpa using h⟩
    simpa using List.find?_some hr
  · exact absurd h (by simp)

theorem decode_error {w : Word} {e : DecodeError} (h : decode w = .error e) :
    (∀ r ∈ opcodeRows, r.accepts w = false) ∧ e = rejection w := by
  unfold decode at h
  split at h
  · exact absurd h (by simp)
  · next hn =>
    rw [List.find?_eq_none] at hn
    exact ⟨fun r hr => by simpa using hn r hr, by simpa using h.symm⟩

theorem decode_rejected {w : Word} (h : ∀ r ∈ opcodeRows, r.accepts w = false) :
    decode w = .error (rejection w) := by
  have hn : opcodeRows.find? (fun r => r.accepts w) = none := by
    rw [List.find?_eq_none]
    intro r hr
    simp [h r hr]
  simp [decode, hn]

theorem immField_lt (w : Word) : immField w < 65536 := (w.extractLsb 15 0).isLt

/-- Every row builds a well-formed command, so the decoder answers nothing else (30_encoding.md R82). -/
theorem decode_wellFormed {w : Word} {i : Instr} (h : decode w = .ok i) : WellFormed i = true := by
  obtain ⟨r, hr, -, rfl⟩ := decode_ok h
  have himm : immFits (immField w) = true := by simp [immFits, immField_lt]
  simp only [opcodeRows, substrateRows, modularRows, List.cons_append, List.nil_append, List.mem_cons,
    List.not_mem_nil, or_false] at hr
  rcases hr with rfl | rfl | rfl | rfl | rfl | rfl | rfl | rfl | rfl | rfl | rfl | rfl | rfl | rfl | rfl | rfl | rfl | rfl
    <;> simp [WellFormed, himm]

end Sys2Proof.Laws
end

