-- ==== Sys2Proof/Laws/PerInstr.lean ====
section
/-! SUPPORT. Per constructor: the encoder's word carries exactly its row's fixed bits (30_encoding.md R83, R85). -/

namespace Sys2Proof.Laws

/-! ### Placed fields under a mask -/

theorem formatR_and (mask : Word) {pattern : Word} {rd rs1 rs2 rs3 : RegIx} (hp : pattern &&& mask = pattern)
    (h0 : placeReg rd 22 &&& mask = 0#32) (h1 : placeReg rs1 18 &&& mask = 0#32)
    (h2 : placeReg rs2 14 &&& mask = 0#32) (h3 : placeReg rs3 10 &&& mask = 0#32) :
    formatR pattern rd rs1 rs2 rs3 &&& mask = pattern := by
  simp [formatR, BitVec.and_or_distrib_right, hp, h0, h1, h2, h3]

theorem formatI_and (mask : Word) {pattern : Word} {rd rs1 : RegIx} {imm : Nat} (hp : pattern &&& mask = pattern)
    (h0 : placeReg rd 22 &&& mask = 0#32) (h1 : placeReg rs1 18 &&& mask = 0#32)
    (hm : mask &&& 0x0000FFFF#32 = 0#32) :
    formatI pattern rd rs1 imm &&& mask = pattern := by
  have himm : (BitVec.ofNat 16 imm).zeroExtend 32 &&& mask = 0#32 := by
    have hz : (BitVec.ofNat 16 imm).zeroExtend 32 = (BitVec.ofNat 16 imm).zeroExtend 32 &&& 0x0000FFFF#32 := by
      apply BitVec.eq_of_toNat_eq
      have : (BitVec.ofNat 16 imm).toNat < 2 ^ 16 := (BitVec.ofNat 16 imm).isLt
      have h16 : (65535 : Nat) = 2 ^ 16 - 1 := rfl
      simp only [BitVec.toNat_and, BitVec.toNat_setWidth, BitVec.toNat_ofNat] at *
      norm_num
      rw [h16, Nat.and_two_pow_sub_one_eq_mod]
      omega
    rw [hz, BitVec.and_assoc, BitVec.and_comm (0x0000FFFF#32), hm, BitVec.and_zero]
  simp [formatI, BitVec.and_or_distrib_right, hp, h0, h1, himm]

end Sys2Proof.Laws

/-! ### The family -/

namespace Sys2Proof.Laws.MatchesRow

/-- The row of 30_encoding.md R83 whose command this is, as its place in the opcode map. -/
def rowIndex : Instr → Fin 18
  | .nop => 0
  | .mov _ _ => 1
  | .ldi _ _ => 2
  | .add _ _ _ => 3
  | .mul _ _ _ => 4
  | .mod _ _ _ => 5
  | .mask _ _ => 6
  | .shl _ _ _ => 7
  | .shr _ _ _ => 8
  | .xor _ _ _ => 9
  | .cmp _ _ => 10
  | .topbit _ _ => 11
  | .modmul _ _ _ _ => 12
  | .modsqr _ _ _ => 13
  | .modexp _ _ _ _ => 14
  | .lcg _ _ _ _ => 15
  | .lcgd _ _ => 16
  | .xsh _ _ => 17

/-- The command's row in the opcode map. -/
def row (i : Instr) : Row := opcodeRows[rowIndex i]

/-- The command's row accepts its encoding. -/
def Statement (i : Instr) : Prop := encode i &&& (row i).mask = (row i).pattern

theorem nop : Statement .nop := rfl

theorem mov (rd rs1 : RegIx) : Statement (.mov rd rs1) :=
  formatR_and 0xFC03FFFF#32 (by decide) (by revert rd; decide) (by revert rs1; decide) (by decide) (by decide)

theorem ldi (rd : RegIx) (imm : Nat) : Statement (.ldi rd imm) :=
  formatI_and 0xFC3F0000#32 (by decide) (by revert rd; decide) (by decide) (by decide)

theorem add (rd rs1 rs2 : RegIx) : Statement (.add rd rs1 rs2) :=
  formatR_and 0xFC003FFF#32 (by decide) (by revert rd; decide) (by revert rs1; decide) (by revert rs2; decide) (by decide)

theorem mul (rd rs1 rs2 : RegIx) : Statement (.mul rd rs1 rs2) :=
  formatR_and 0xFC003FFF#32 (by decide) (by revert rd; decide) (by revert rs1; decide) (by revert rs2; decide) (by decide)

theorem mod (rd rs1 rs2 : RegIx) : Statement (.mod rd rs1 rs2) :=
  formatR_and 0xFC003FFF#32 (by decide) (by revert rd; decide) (by revert rs1; decide) (by revert rs2; decide) (by decide)

theorem mask (rd rs1 : RegIx) : Statement (.mask rd rs1) :=
  formatR_and 0xFC03FFFF#32 (by decide) (by revert rd; decide) (by revert rs1; decide) (by decide) (by decide)

theorem shl (rd rs1 : RegIx) (imm : Nat) : Statement (.shl rd rs1 imm) :=
  formatI_and 0xFC030000#32 (by decide) (by revert rd; decide) (by revert rs1; decide) (by decide)

theorem shr (rd rs1 : RegIx) (imm : Nat) : Statement (.shr rd rs1 imm) :=
  formatI_and 0xFC030000#32 (by decide) (by revert rd; decide) (by revert rs1; decide) (by decide)

theorem xor (rd rs1 rs2 : RegIx) : Statement (.xor rd rs1 rs2) :=
  formatR_and 0xFC003FFF#32 (by decide) (by revert rd; decide) (by revert rs1; decide) (by revert rs2; decide) (by decide)

theorem cmp (rs1 rs2 : RegIx) : Statement (.cmp rs1 rs2) :=
  formatR_and 0xFFC03FFF#32 (by decide) (by decide) (by revert rs1; decide) (by revert rs2; decide) (by decide)

theorem topbit (rd rs1 : RegIx) : Statement (.topbit rd rs1) :=
  formatR_and 0xFC03FFFF#32 (by decide) (by revert rd; decide) (by revert rs1; decide) (by decide) (by decide)

theorem modmul (rd rs1 rs2 rs3 : RegIx) : Statement (.modmul rd rs1 rs2 rs3) :=
  formatR_and 0xFC0003FF#32 (by decide) (by revert rd; decide) (by revert rs1; decide) (by revert rs2; decide)
    (by revert rs3; decide)

theorem modsqr (rd rs1 rs2 : RegIx) : Statement (.modsqr rd rs1 rs2) :=
  formatR_and 0xFC003FFF#32 (by decide) (by revert rd; decide) (by revert rs1; decide) (by revert rs2; decide) (by decide)

theorem modexp (rd rs1 rs2 rs3 : RegIx) : Statement (.modexp rd rs1 rs2 rs3) :=
  formatR_and 0xFC0003FF#32 (by decide) (by revert rd; decide) (by revert rs1; decide) (by revert rs2; decide)
    (by revert rs3; decide)

theorem lcg (rd rs1 rs2 rs3 : RegIx) : Statement (.lcg rd rs1 rs2 rs3) :=
  formatR_and 0xFC0003FF#32 (by decide) (by revert rd; decide) (by revert rs1; decide) (by revert rs2; decide)
    (by revert rs3; decide)

theorem lcgd (rd rs1 : RegIx) : Statement (.lcgd rd rs1) :=
  formatR_and 0xFC03FFFF#32 (by decide) (by revert rd; decide) (by revert rs1; decide) (by decide) (by decide)

theorem xsh (rd rs1 : RegIx) : Statement (.xsh rd rs1) :=
  formatR_and 0xFC03FFFF#32 (by decide) (by revert rd; decide) (by revert rs1; decide) (by decide) (by decide)

end Sys2Proof.Laws.MatchesRow
end

