-- ==== Sys2Proof/Laws/Step.lean ====
section
/-! SUPPORT. What one step can do, once. -/

namespace Sys2Proof.Laws

open Sys2Proof.Machine

/-! ### The result of a command -/

/-- Every command completes with some result. -/
theorem exec_completes (i : Instr) (s : State) : ∃ r : Result, exec i s = .next (s.complete r) := by
  cases i <;> exact ⟨_, rfl⟩

theorem engineStep_ok {s : State} {i : Instr} (h : decode s.pend.word = .ok i) : engineStep s = exec i s := by
  simp [engineStep, pendingCommand, h]

theorem engineStep_illegal {s : State} {e : DecodeError} (h : decode s.pend.word = .error e) :
    engineStep s = .next (s.complete (.fault .illegal)) := by
  simp [engineStep, pendingCommand, h, State.complete]

/-- Every engine step completes with some result. -/
theorem engineStep_completes (s : State) : ∃ r : Result, engineStep s = .next (s.complete r) := by
  cases h : decode s.pend.word with
  | ok i => rw [engineStep_ok h]; exact exec_completes i s
  | error e => exact ⟨_, engineStep_illegal h⟩

theorem engineTurn_busy {s : State} (h : s.busy = true) : engineTurn s = engineStep s := if_pos h

theorem engineTurn_idle {s : State} (h : s.busy = false) : engineTurn s = .next s := by
  simp [engineTurn, h]

/-! ### The step -/

theorem step_access {s : State} {a : Access} {rest : List Input} (h : s.inputs = .access a :: rest) :
    step s = .next (hostAccess a { s with inputs := rest }) := by
  simp [step, h]

theorem step_hardwareReset {s : State} {rest : List Input} (h : s.inputs = .hardwareReset :: rest) :
    step s = .next (State.toReset { s with inputs := rest }) := by
  simp [step, h]

theorem step_engineTurn {s : State} {rest : List Input} (h : s.inputs = .engineTurn :: rest) :
    step s = engineTurn { s with inputs := rest } := by
  simp [step, h]

theorem step_noInput {s : State} (h : s.inputs = []) : step s = engineTurn s := by
  simp [step, h]

/-- What a step does: a host access, a hardware reset, an engine step of a pending command, or nothing. -/
theorem step_cases {s t : State} (h : step s = .next t) :
    (∃ a rest, s.inputs = .access a :: rest ∧ t = hostAccess a { s with inputs := rest }) ∨
    (∃ rest, s.inputs = .hardwareReset :: rest ∧ t = State.toReset { s with inputs := rest }) ∨
    (∃ rest, (s.inputs = [] ∧ rest = [] ∨ s.inputs = .engineTurn :: rest) ∧
      ((s.busy = true ∧ engineStep { s with inputs := rest } = .next t) ∨
       (s.busy = false ∧ t = { s with inputs := rest }))) := by
  have turn : ∀ u : State, engineTurn u = .next t →
      (u.busy = true ∧ engineStep u = .next t) ∨ (u.busy = false ∧ t = u) := by
    intro u hu
    cases hb : u.busy with
    | true => rw [engineTurn_busy hb] at hu; exact .inl ⟨rfl, hu⟩
    | false =>
      rw [engineTurn_idle hb] at hu
      simp only [Host.Outcome.next.injEq] at hu
      exact .inr ⟨rfl, hu.symm⟩
  cases hi : s.inputs with
  | nil =>
    rw [step_noInput hi] at h
    have hs : { s with inputs := [] } = s := by rw [← hi]
    exact .inr (.inr ⟨[], .inl ⟨rfl, rfl⟩, by rw [hs]; exact turn s h⟩)
  | cons x rest =>
    cases x with
    | access a =>
      rw [step_access hi] at h
      simp only [Host.Outcome.next.injEq] at h
      exact .inl ⟨a, rest, rfl, h.symm⟩
    | engineTurn =>
      rw [step_engineTurn hi] at h
      exact .inr (.inr ⟨rest, .inr rfl, turn _ h⟩)
    | hardwareReset =>
      rw [step_hardwareReset hi] at h
      simp only [Host.Outcome.next.injEq] at h
      exact .inr (.inl ⟨rest, rfl, h.symm⟩)

/-! ### Runs -/

theorem run_zero (s : State) : Host.Core.run core 0 s = .next s := rfl

/-- A run begins with one step. -/
theorem run_succ {s t : State} (h : step s = .next t) (n : Nat) :
    Host.Core.run core (n + 1) s = Host.Core.run core n t := by
  have hc : core.step s = .next t := h
  simp only [Host.Core.run, hc]

/-- A run of `m + n` steps is a run of `m` steps followed by a run of `n` from where that ends. -/
theorem run_add {m n : Nat} {s t : State} (h : Host.Core.run core m s = .next t) :
    Host.Core.run core (m + n) s = Host.Core.run core n t := by
  induction m generalizing s with
  | zero =>
    cases h
    rw [Nat.zero_add]
  | succ m ih =>
    rw [Nat.succ_add]
    cases hs : step s with
    | next u => rw [run_succ hs] at h ⊢; exact ih h
    | fault r => have hc : core.step s = .fault r := hs; simp [Host.Core.run, hc] at h
    | refused r => have hc : core.step s = .refused r := hs; simp [Host.Core.run, hc] at h

/-- The state of an unblocked block after a CMD write of `v` is accepted, and the engine's turn is taken from the inputs. -/
def acceptedTurn (s : State) (v : Word) (rest : List Input) : State :=
  { (s.accept v).respond .writeDone with inputs := rest }

section
variable (s : State) (v : Word) (rest : List Input)

@[simp] theorem acceptedTurn_params : (acceptedTurn s v rest).params = s.params := rfl
@[simp] theorem acceptedTurn_reg (r : RegIx) : (acceptedTurn s v rest).reg r = s.reg r := rfl
@[simp] theorem acceptedTurn_W : (acceptedTurn s v rest).W = s.width.toNat := rfl
@[simp] theorem acceptedTurn_width : (acceptedTurn s v rest).width = s.width := rfl
@[simp] theorem acceptedTurn_err : (acceptedTurn s v rest).status.err = s.status.err := rfl
@[simp] theorem acceptedTurn_inputs : (acceptedTurn s v rest).inputs = rest := rfl

end

/-- A command issued to an idle block whose ERR is 0, and then run, is two steps: acceptance, and exec of the command on the
accepted state. -/
theorem run_command {s : State} {i : Instr} {rest : List Input} (hd : decode (encode i) = .ok i)
    (hb : s.busy = false) (he : s.status.err = false) :
    Host.Core.run core 2 { s with inputs := runCommand s.params i ++ rest }
      = exec i (acceptedTurn s (encode i) rest) := by
  have accepted : step { s with inputs := runCommand s.params i ++ rest }
      = .next { (s.accept (encode i)).respond .writeDone with inputs := .engineTurn :: rest } := by
    refine (step_access (s := { s with inputs := runCommand s.params i ++ rest })
      (a := .write (s.params.base + 0x010) .word (encode i)) (rest := .engineTurn :: rest) rfl).trans (congrArg _ ?_)
    refine (hostAccess_write { s with inputs := .engineTurn :: rest }
      (portOffset_inside s.params (off := 0x010) (by decide))).trans ?_
    rw [busWrite_accepted _ (by decide)]
    change (State.issue { s with inputs := .engineTurn :: rest } (encode i)).respond .writeDone = _
    rw [issue_accepted { s with inputs := .engineTurn :: rest } _ ⟨hb, he⟩]
    rfl
  have executed : step { (s.accept (encode i)).respond .writeDone with inputs := .engineTurn :: rest }
      = exec i (acceptedTurn s (encode i) rest) := by
    rw [step_engineTurn (s := { (s.accept (encode i)).respond .writeDone with inputs := .engineTurn :: rest })
      (rest := rest) rfl, engineTurn_busy rfl]
    exact engineStep_ok hd
  obtain ⟨r, hr⟩ := exec_completes i (acceptedTurn s (encode i) rest)
  exact (run_succ accepted 1).trans ((run_succ (executed.trans hr) 0).trans hr.symm)

end Sys2Proof.Laws
end

