-- ==== Sys2Proof/Tests/Slice0.lean ====
section
/-! SUPPORT. Tests of the model against the spec's worked examples and vectors (95_test_vectors.md), the smoke tests of
`WellFormed`, and a witness for the hypotheses of each statement. Expected values are the spec's. -/

-- One proof at a time: each kernel evaluation below would otherwise hold a thread of its own while it waits.
set_option Elab.async false

namespace Sys2Proof.Tests

open Sys2Proof.Machine Sys2Proof.Claims

/-! ### Small states -/

/-- A block with a command pending at width `w`, with these register values and everything else at reset. -/
def busyAt (w : Nat) (regs : List (RegIx × Nat)) : State :=
  regs.foldl (fun s p => s.setReg p.1 p.2)
    { State.reset with width := BitVec.ofNat 16 w, pend := { valid := true, word := 0#32, w := BitVec.ofNat 16 w } }

/-- An idle block with WIDTH `w`, with these register values and everything else at reset. -/
def idleAt (w : Nat) (regs : List (RegIx × Nat)) : State :=
  regs.foldl (fun s p => s.setReg p.1 p.2) { State.reset with width := BitVec.ofNat 16 w }

/-- A block with the command word `w` pending. -/
def pendingWord (w : Word) : State :=
  { State.reset with cmd := w, pend := { valid := true, word := w, w := 0#16 } }

/-- An idle block about to take one input. -/
def facing (i : Input) : State := { State.reset with inputs := [i] }

/-- A busy block about to take one input. -/
def busyFacing (i : Input) : State :=
  { State.reset with inputs := [i], pend := { valid := true, word := 0#32, w := 0#16 } }

/-- The state a step or a command gives. -/
def result (o : Host.Outcome State Fault Refusal) : Option State :=
  match o with
  | .next t => some t
  | .fault _ => none
  | .refused _ => none

/-- Register `r` and the STATUS word after a command. -/
def shows (o : Host.Outcome State Fault Refusal) (r : RegIx) : Option (Nat × Word) :=
  (result o).map fun t => (t.reg r, statusWord t)

/-- The last bus response, and the STATUS word, after a step. -/
def answers (o : Host.Outcome State Fault Refusal) : Option (Option Response × Word) :=
  (result o).map fun t => (t.responses.head?, statusWord t)

/-! ### WellFormed refuses an immediate that does not fit (30_encoding.md R82) -/

theorem test_wellFormed_ldi_refuses : WellFormed (.ldi 1 65536) = false := by decide
theorem test_wellFormed_shl_refuses : WellFormed (.shl 1 2 65536) = false := by decide
theorem test_wellFormed_shr_refuses : WellFormed (.shr 1 2 65536) = false := by decide
theorem test_wellFormed_largest_immediates :
    WellFormed (.ldi 1 65535) = true ∧ WellFormed (.shl 1 2 65535) = true ∧ WellFormed (.shr 1 2 65535) = true := by
  decide

/-! ### Decoding: the words of the rules' own examples, and the illegal words V83 to V90 -/

theorem test_decode_nop : decode 0x00000000#32 = .ok (.nop) ∧ encode (.nop) = 0x00000000#32 := by decide
theorem test_decode_mov : decode 0x05240000#32 = .ok (.mov 4 9) ∧ encode (.mov 4 9) = 0x05240000#32 := by decide
theorem test_decode_ldi : decode 0x09C00001#32 = .ok (.ldi 7 1) ∧ encode (.ldi 7 1) = 0x09C00001#32 := by decide
theorem test_decode_add : decode 0x0C48C000#32 = .ok (.add 1 2 3) ∧ encode (.add 1 2 3) = 0x0C48C000#32 := by decide
theorem test_decode_mul : decode 0x11158000#32 = .ok (.mul 4 5 6) ∧ encode (.mul 4 5 6) = 0x11158000#32 := by decide
theorem test_decode_mod : decode 0x15E24000#32 = .ok (.mod 7 8 9) ∧ encode (.mod 7 8 9) = 0x15E24000#32 := by decide
theorem test_decode_mask : decode 0x18480000#32 = .ok (.mask 1 2) ∧ encode (.mask 1 2) = 0x18480000#32 := by decide
theorem test_decode_shl : decode 0x1C480005#32 = .ok (.shl 1 2 5) ∧ encode (.shl 1 2 5) = 0x1C480005#32 := by decide
theorem test_decode_shr : decode 0x20480011#32 = .ok (.shr 1 2 17) ∧ encode (.shr 1 2 17) = 0x20480011#32 := by decide
theorem test_decode_xor : decode 0x2448C000#32 = .ok (.xor 1 2 3) ∧ encode (.xor 1 2 3) = 0x2448C000#32 := by decide
theorem test_decode_cmp : decode 0x280DC000#32 = .ok (.cmp 3 7) ∧ encode (.cmp 3 7) = 0x280DC000#32 := by decide
theorem test_decode_topbit : decode 0x2CC80000#32 = .ok (.topbit 3 2) ∧ encode (.topbit 3 2) = 0x2CC80000#32 := by decide
theorem test_decode_modmul : decode 0x4048D000#32 = .ok (.modmul 1 2 3 4) ∧ encode (.modmul 1 2 3 4) = 0x4048D000#32 := by decide
theorem test_decode_modsqr : decode 0x45558000#32 = .ok (.modsqr 5 5 6) ∧ encode (.modsqr 5 5 6) = 0x45558000#32 := by decide
theorem test_decode_modexp : decode 0x48C04800#32 = .ok (.modexp 3 0 1 2) ∧ encode (.modexp 3 0 1 2) = 0x48C04800#32 := by decide
theorem test_decode_lcg : decode 0x60448C00#32 = .ok (.lcg 1 1 2 3) ∧ encode (.lcg 1 1 2 3) = 0x60448C00#32 := by decide
theorem test_decode_lcgd : decode 0x64440000#32 = .ok (.lcgd 1 1) ∧ encode (.lcgd 1 1) = 0x64440000#32 := by decide
theorem test_decode_xsh : decode 0x68880000#32 = .ok (.xsh 2 2) ∧ encode (.xsh 2 2) = 0x68880000#32 := by decide

theorem test_decode_reserved_opcodes :
    decode 0x30000000#32 = .error (.reservedOpcode 0x0C#6) ∧ decode 0xFC000000#32 = .error (.reservedOpcode 0x3F#6) := by
  decide
theorem test_decode_reserved_fields :
    decode 0x00000001#32 = .error (.reservedField "NOP") ∧ decode 0x04484000#32 = .error (.reservedField "MOV") ∧
    decode 0x0C48C001#32 = .error (.reservedField "ADD") ∧ decode 0x08440000#32 = .error (.reservedField "LDI") ∧
    decode 0x1C490003#32 = .error (.reservedField "SHL") ∧ decode 0x28448000#32 = .error (.reservedField "CMP") := by
  decide
theorem test_table_word : decodeTableWord 32 0x48C04800 = some (.modexp 3 0 1 2) := by decide
theorem test_fetch_runs_at_reset :
    shows (step (State.reset.withFetchWord 32 0x09C0FFFF)) 7 = some (65535, 0x00000002#32) := by decide

/-! ### One step of each command: register and STATUS afterwards (95_test_vectors.md section 2) -/

theorem test_nop_V75 : shows (exec (.nop) (busyAt 0 [])) 0 = some (0, 0x00000002#32) := by decide +kernel
theorem test_mov_V76 : shows (exec (.mov 4 9) (busyAt 0 [(9, 561)])) 4 = some (561, 0x00000002#32) := by decide +kernel
theorem test_ldi_V78 : shows (exec (.ldi 7 1) (busyAt 0 [(7, 2 ^ 8192 - 1)])) 7 = some (1, 0x00000002#32) := by decide +kernel
theorem test_cmp_V81 : shows (exec (.cmp 3 7) (busyAt 0 [(3, 1), (7, 2)])) 3 = some (1, 0x00000042#32) := by decide +kernel
theorem test_cmp_V80 : shows (exec (.cmp 3 7) (busyAt 0 [(3, 1), (7, 1)])) 3 = some (1, 0x00000022#32) := by decide +kernel
theorem test_add_V1 : shows (exec (.add 1 2 3) (busyAt 0 [(2, 5), (3, 7)])) 1 = some (12, 0x00000002#32) := by decide +kernel
theorem test_add_V3 : shows (exec (.add 1 2 3) (busyAt 0 [(2, 2 ^ 8192 - 1), (3, 1)])) 1 = some (0, 0x00000406#32) := by decide +kernel
theorem test_mul_V5 : shows (exec (.mul 4 5 6) (busyAt 0 [(5, 2 ^ 4096 - 1), (6, 2 ^ 4096 - 1)])) 4 = some (2 ^ 8192 - 2 ^ 4097 + 1, 0x00000002#32) := by decide +kernel
theorem test_mul_V6 : shows (exec (.mul 4 5 6) (busyAt 0 [(5, 2 ^ 4096), (6, 2 ^ 4096)])) 4 = some (0, 0x00000406#32) := by decide +kernel
theorem test_mod_V9 : shows (exec (.mod 7 8 9) (busyAt 0 [(8, 100), (9, 7)])) 7 = some (2, 0x00000002#32) := by decide +kernel
theorem test_mod_V10 : shows (exec (.mod 7 8 9) (busyAt 0 [(8, 100), (9, 0)])) 7 = some (0, 0x00000306#32) := by decide +kernel
theorem test_mask_V17 : shows (exec (.mask 1 2) (busyAt 4096 [(2, 2 ^ 8192 - 1)])) 1 = some (2 ^ 4096 - 1, 0x00000002#32) := by decide +kernel
theorem test_mask_V16 : shows (exec (.mask 1 2) (busyAt 4097 [(2, 4660)])) 1 = some (0, 0x00000206#32) := by decide +kernel
theorem test_shl_V19 : shows (exec (.shl 1 2 5) (busyAt 8 [(2, 171)])) 1 = some (96, 0x00000002#32) := by decide +kernel
theorem test_shl_V22 : shows (exec (.shl 1 2 65535) (busyAt 4096 [(2, 1)])) 1 = some (0, 0x00000002#32) := by decide +kernel
theorem test_shr_V25 : shows (exec (.shr 1 2 4) (busyAt 8 [(2, 4660)])) 1 = some (35, 0x00000002#32) := by decide +kernel
theorem test_shr_V27 : shows (exec (.shr 1 2 1) (busyAt 0 [(2, 2)])) 1 = some (0, 0x00000206#32) := by decide +kernel
theorem test_xor_V30 : shows (exec (.xor 1 2 3) (busyAt 0 [(2, 2 ^ 8192 - 1), (3, 2 ^ 8191)])) 1 = some (2 ^ 8191 - 1, 0x00000002#32) := by decide +kernel
theorem test_modmul_V35 : shows (exec (.modmul 4 2 3 4) (busyAt 0 [(2, 123), (3, 456), (4, 1000)])) 4 = some (88, 0x00000002#32) := by decide +kernel
theorem test_modsqr_V36 : shows (exec (.modsqr 5 5 6) (busyAt 0 [(5, 263), (6, 561)])) 5 = some (166, 0x00000002#32) := by decide +kernel
theorem test_modexp_V40 : shows (exec (.modexp 3 0 1 2) (busyAt 0 [(0, 4), (1, 13), (2, 497)])) 3 = some (445, 0x00000002#32) := by decide +kernel
theorem test_modexp_V47 : shows (exec (.modexp 3 0 1 2) (busyAt 0 [(0, 2), (1, 2 ^ 8192 - 1), (2, 2 ^ 127 - 1)])) 3 = some (8, 0x00000002#32) := by decide +kernel
theorem test_lcg_V49 : shows (exec (.lcg 1 1 2 3) (busyAt 8 [(1, 42), (2, 1103515245), (3, 12345)])) 1 = some (27, 0x00000002#32) := by decide +kernel
theorem test_lcg_V50 : shows (exec (.lcg 1 1 2 3) (busyAt 8 [(1, 256), (2, 1103515245), (3, 12345)])) 1 = some (256, 0x00000206#32) := by decide +kernel
theorem test_lcgd_V54 : shows (exec (.lcgd 1 1) (busyAt 8 [(1, 42)])) 1 = some (27, 0x00000002#32) := by decide +kernel
theorem test_lcgd_V59 : shows (exec (.lcgd 1 1) (busyAt 8 [(1, 300)])) 1 = some (300, 0x00000206#32) := by decide +kernel
theorem test_xsh_V62 : shows (exec (.xsh 2 2) (busyAt 64 [(2, 1)])) 2 = some (1082269761, 0x00000002#32) := by decide +kernel
theorem test_xsh_V67 : shows (exec (.xsh 2 2) (busyAt 129 [(2, 1)])) 2 = some (0x100000080002000001, 0x00000002#32) := by decide +kernel
theorem test_topbit_V70 : shows (exec (.topbit 3 2) (busyAt 8 [(2, 27)])) 3 = some (155, 0x00000002#32) := by decide +kernel
theorem test_topbit_V73 : shows (exec (.topbit 3 2) (busyAt 8 [(2, 256)])) 3 = some (0, 0x00000206#32) := by decide +kernel

/-! ### Host accesses (95_test_vectors.md section 3) -/

theorem test_read_id_M1 : answers (step (facing (memRead Params.default 0x000)))
    = some (some (.readData 0x4D455850#32), 0x00000000#32) := by decide
theorem test_read_param_M2 : answers (step (facing (memRead Params.default 0x004)))
    = some (some (.readData 0x01101000#32), 0x00000000#32) := by decide
theorem test_misaligned_M5 : answers (step (facing (memRead Params.default 0x002)))
    = some (some (.readData 0#32), 0x00000010#32) := by decide
theorem test_busy_data_M12 : answers (step (busyFacing (memRead Params.default 0x1000)))
    = some (some (.readData 0#32), 0x00000011#32) := by decide
theorem test_busy_cmd_M14 : answers (step (busyFacing (memWrite Params.default 0x010 5#32)))
    = some (some .writeDone, 0x00000009#32) := by decide
theorem test_data_write_M10 :
    (result (step { facing (memWrite Params.default 0x1004 0xAABBCCDD#32) with rsel := 3 })).map (fun t => t.reg 3)
      = some 0xAABBCCDD00000000 := by decide +kernel
theorem test_rsel_M8 :
    (result (step (facing (memWrite Params.default 0x018 0xFFFFFFFF#32)))).map (fun t => rselWord t) = some 15#32 := by
  decide
theorem test_ctrl_M9 :
    (result (step (facing (memWrite Params.default 0x008 0xFFFFFFFD#32)))).map (fun t => ctrlWord t) = some 1#32 := by
  decide
theorem test_status_ack_M17 :
    (State.reset.status.clearOnes 0x4#32, ({ State.reset.status with done := true, err := true, errcode := 2#4 }
      : Status).clearOnes 0x4#32) = (State.reset.status, { State.reset.status with done := true }) := by decide
theorem test_aperture_bytes :
    (apertureByte State.reset 0x000, apertureByte State.reset 0x003) = (0x50#8, 0x4D#8) := by decide
theorem test_asm_text : asmText (.modexp 3 0 1 2) = "modexp r3, r0, r1, r2" := by decide

/-! ### Witnesses: states and operands that meet the hypotheses of each statement -/

theorem witness_NopOnlyCompletes :
    (pendingWord 0x00000000#32).pend.word &&& 0xFFFFFFFF#32 = 0x00000000#32 ∧
    opField (pendingWord 0x00000001#32).pend.word = opField 0x00000000#32 ∧
    (pendingWord 0x00000001#32).pend.word &&& 0xFFFFFFFF#32 ≠ 0x00000000#32 := by
  decide +kernel

theorem witness_MovCopiesRegister :
    (pendingWord 0x05240000#32).pend.word &&& 0xFC03FFFF#32 = 0x04000000#32 ∧
    opField (pendingWord 0x04484000#32).pend.word = opField 0x04000000#32 ∧
    (pendingWord 0x04484000#32).pend.word &&& 0xFC03FFFF#32 ≠ 0x04000000#32 := by
  decide +kernel

theorem witness_LdiLoadsZeroExtendedImmediate :
    (pendingWord 0x09C00001#32).pend.word &&& 0xFC3F0000#32 = 0x08000000#32 ∧
    opField (pendingWord 0x08440000#32).pend.word = opField 0x08000000#32 ∧
    (pendingWord 0x08440000#32).pend.word &&& 0xFC3F0000#32 ≠ 0x08000000#32 ∧
    (65535 < 65536) := by
  decide +kernel

theorem witness_CmpSetsBothFlags :
    (pendingWord 0x280DC000#32).pend.word &&& 0xFFC03FFF#32 = 0x28000000#32 ∧
    opField (pendingWord 0x28448000#32).pend.word = opField 0x28000000#32 ∧
    (pendingWord 0x28448000#32).pend.word &&& 0xFFC03FFF#32 ≠ 0x28000000#32 := by
  decide +kernel

theorem witness_AddWritesExactSumOrOverflows :
    (pendingWord 0x0C48C000#32).pend.word &&& 0xFC003FFF#32 = 0x0C000000#32 ∧
    opField (pendingWord 0x0C48C001#32).pend.word = opField 0x0C000000#32 ∧
    (pendingWord 0x0C48C001#32).pend.word &&& 0xFC003FFF#32 ≠ 0x0C000000#32 ∧
    ((busyAt 0 [(2, 2 ^ 8192 - 1)]).reg 2 + (busyAt 0 [(2, 2 ^ 8192 - 1)]).reg 3 < 2 ^ (busyAt 0 [(2, 2 ^ 8192 - 1)]).params.regBits) ∧
    (2 ^ (busyAt 0 [(1, 2 ^ 8191)]).params.regBits ≤ (busyAt 0 [(1, 2 ^ 8191)]).reg 1 + (busyAt 0 [(1, 2 ^ 8191)]).reg 1) := by
  decide +kernel

theorem witness_MulWritesExactProductOrOverflows :
    (pendingWord 0x11158000#32).pend.word &&& 0xFC003FFF#32 = 0x10000000#32 ∧
    opField (pendingWord 0x11158001#32).pend.word = opField 0x10000000#32 ∧
    (pendingWord 0x11158001#32).pend.word &&& 0xFC003FFF#32 ≠ 0x10000000#32 ∧
    ((busyAt 0 [(2, 2 ^ 8192 - 1), (3, 1)]).reg 2 * (busyAt 0 [(2, 2 ^ 8192 - 1), (3, 1)]).reg 3 < 2 ^ (busyAt 0 []).params.regBits) ∧
    (2 ^ (busyAt 0 []).params.regBits ≤ (busyAt 0 [(1, 2 ^ 4096)]).reg 1 * (busyAt 0 [(1, 2 ^ 4096)]).reg 1) := by
  decide +kernel

theorem witness_ModWritesLeastRemainder :
    (pendingWord 0x15E24000#32).pend.word &&& 0xFC003FFF#32 = 0x14000000#32 ∧
    opField (pendingWord 0x15E24001#32).pend.word = opField 0x14000000#32 ∧
    (pendingWord 0x15E24001#32).pend.word &&& 0xFC003FFF#32 ≠ 0x14000000#32 ∧
    (busyAt 0 [(2, 1)]).reg 2 ≠ 0 ∧
    (busyAt 0 []).reg 2 = 0 := by
  decide +kernel

theorem witness_MaskReducesModTwoPowW :
    (pendingWord 0x18480000#32).pend.word &&& 0xFC03FFFF#32 = 0x18000000#32 ∧
    opField (pendingWord 0x18480001#32).pend.word = opField 0x18000000#32 ∧
    (pendingWord 0x18480001#32).pend.word &&& 0xFC03FFFF#32 ≠ 0x18000000#32 ∧
    WidthLegal (busyAt 1 []) ∧
    WidthLegal (busyAt 4096 []) ∧
    ¬WidthLegal (busyAt 0 []) ∧
    ¬WidthLegal (busyAt 4097 []) := by
  unfold WidthLegal
  decide +kernel

theorem witness_ShlShiftsThenMasks :
    (pendingWord 0x1C480005#32).pend.word &&& 0xFC030000#32 = 0x1C000000#32 ∧
    opField (pendingWord 0x1C490003#32).pend.word = opField 0x1C000000#32 ∧
    (pendingWord 0x1C490003#32).pend.word &&& 0xFC030000#32 ≠ 0x1C000000#32 ∧
    65535 < 65536 ∧
    WidthLegal (busyAt 1 []) ∧
    WidthLegal (busyAt 4096 []) ∧
    ¬WidthLegal (busyAt 0 []) ∧
    ¬WidthLegal (busyAt 4097 []) := by
  unfold WidthLegal
  decide +kernel

theorem witness_ShrShiftsThenMasks :
    (pendingWord 0x20480011#32).pend.word &&& 0xFC030000#32 = 0x20000000#32 ∧
    opField (pendingWord 0x20490003#32).pend.word = opField 0x20000000#32 ∧
    (pendingWord 0x20490003#32).pend.word &&& 0xFC030000#32 ≠ 0x20000000#32 ∧
    65535 < 65536 ∧
    WidthLegal (busyAt 1 []) ∧
    WidthLegal (busyAt 4096 []) ∧
    ¬WidthLegal (busyAt 0 []) ∧
    ¬WidthLegal (busyAt 4097 []) := by
  unfold WidthLegal
  decide +kernel

theorem witness_XorIsBitwiseUnmasked :
    (pendingWord 0x2448C000#32).pend.word &&& 0xFC003FFF#32 = 0x24000000#32 ∧
    opField (pendingWord 0x2448C001#32).pend.word = opField 0x24000000#32 ∧
    (pendingWord 0x2448C001#32).pend.word &&& 0xFC003FFF#32 ≠ 0x24000000#32 := by
  decide +kernel

theorem witness_TopbitForcesTopBit :
    (pendingWord 0x2CC80000#32).pend.word &&& 0xFC03FFFF#32 = 0x2C000000#32 ∧
    opField (pendingWord 0x2CC80001#32).pend.word = opField 0x2C000000#32 ∧
    (pendingWord 0x2CC80001#32).pend.word &&& 0xFC03FFFF#32 ≠ 0x2C000000#32 ∧
    (WidthLegal (busyAt 8 [(1, 255)]) ∧ (busyAt 8 [(1, 255)]).reg 1 < 2 ^ (busyAt 8 [(1, 255)]).W) ∧
    (WidthLegal (busyAt 8 [(1, 256)]) ∧ 2 ^ (busyAt 8 [(1, 256)]).W ≤ (busyAt 8 [(1, 256)]).reg 1) ∧
    ¬WidthLegal (busyAt 0 []) ∧
    ¬WidthLegal (busyAt 4097 []) := by
  unfold WidthLegal
  decide +kernel

theorem witness_ModmulWritesResidueOfProduct :
    (pendingWord 0x4048D000#32).pend.word &&& 0xFC0003FF#32 = 0x40000000#32 ∧
    opField (pendingWord 0x4048D001#32).pend.word = opField 0x40000000#32 ∧
    (pendingWord 0x4048D001#32).pend.word &&& 0xFC0003FF#32 ≠ 0x40000000#32 ∧
    (busyAt 0 [(3, 1)]).reg 3 ≠ 0 ∧
    (busyAt 0 []).reg 3 = 0 := by
  decide +kernel

theorem witness_ModsqrWritesResidueOfSquare :
    (pendingWord 0x45558000#32).pend.word &&& 0xFC003FFF#32 = 0x44000000#32 ∧
    opField (pendingWord 0x45558001#32).pend.word = opField 0x44000000#32 ∧
    (pendingWord 0x45558001#32).pend.word &&& 0xFC003FFF#32 ≠ 0x44000000#32 ∧
    (busyAt 0 [(2, 1)]).reg 2 ≠ 0 ∧
    (busyAt 0 []).reg 2 = 0 := by
  decide +kernel

theorem witness_ModexpWritesResidueOfExactPower :
    (pendingWord 0x48C04800#32).pend.word &&& 0xFC0003FF#32 = 0x48000000#32 ∧
    opField (pendingWord 0x48C04801#32).pend.word = opField 0x48000000#32 ∧
    (pendingWord 0x48C04801#32).pend.word &&& 0xFC0003FF#32 ≠ 0x48000000#32 ∧
    (busyAt 0 [(3, 1)]).reg 3 ≠ 0 ∧
    (busyAt 0 []).reg 3 = 0 := by
  decide +kernel

theorem witness_LcgStepsState :
    (pendingWord 0x60448C00#32).pend.word &&& 0xFC0003FF#32 = 0x60000000#32 ∧
    opField (pendingWord 0x60448C01#32).pend.word = opField 0x60000000#32 ∧
    (pendingWord 0x60448C01#32).pend.word &&& 0xFC0003FF#32 ≠ 0x60000000#32 ∧
    (WidthLegal (busyAt 8 [(1, 255)]) ∧ (busyAt 8 [(1, 255)]).reg 1 < 2 ^ (busyAt 8 [(1, 255)]).W) ∧
    (WidthLegal (busyAt 8 [(1, 256)]) ∧ 2 ^ (busyAt 8 [(1, 256)]).W ≤ (busyAt 8 [(1, 256)]).reg 1) ∧
    ¬WidthLegal (busyAt 0 []) ∧
    ¬WidthLegal (busyAt 4097 []) := by
  unfold WidthLegal
  decide +kernel

theorem witness_LcgdStepsStateWithDefaults :
    (pendingWord 0x64440000#32).pend.word &&& 0xFC03FFFF#32 = 0x64000000#32 ∧
    opField (pendingWord 0x64440001#32).pend.word = opField 0x64000000#32 ∧
    (pendingWord 0x64440001#32).pend.word &&& 0xFC03FFFF#32 ≠ 0x64000000#32 ∧
    (WidthLegal (busyAt 8 [(1, 255)]) ∧ (busyAt 8 [(1, 255)]).reg 1 < 2 ^ (busyAt 8 [(1, 255)]).W) ∧
    (WidthLegal (busyAt 8 [(1, 256)]) ∧ 2 ^ (busyAt 8 [(1, 256)]).W ≤ (busyAt 8 [(1, 256)]).reg 1) ∧
    ¬WidthLegal (busyAt 0 []) ∧
    ¬WidthLegal (busyAt 4097 []) := by
  unfold WidthLegal
  decide +kernel

theorem witness_XshRunsThreeSubSteps :
    (pendingWord 0x68880000#32).pend.word &&& 0xFC03FFFF#32 = 0x68000000#32 ∧
    opField (pendingWord 0x68880001#32).pend.word = opField 0x68000000#32 ∧
    (pendingWord 0x68880001#32).pend.word &&& 0xFC03FFFF#32 ≠ 0x68000000#32 ∧
    (WidthLegal (busyAt 8 [(1, 255)]) ∧ (busyAt 8 [(1, 255)]).reg 1 < 2 ^ (busyAt 8 [(1, 255)]).W) ∧
    (WidthLegal (busyAt 8 [(1, 256)]) ∧ 2 ^ (busyAt 8 [(1, 256)]).W ≤ (busyAt 8 [(1, 256)]).reg 1) ∧
    ¬WidthLegal (busyAt 0 []) ∧
    ¬WidthLegal (busyAt 4097 []) := by
  unfold WidthLegal
  decide +kernel

theorem witness_XshRunsThreeSubSteps_result :
    WidthLegal (busyAt 32 [(1, 1)]) ∧ (busyAt 32 [(1, 1)]).reg 1 < 2 ^ (busyAt 32 [(1, 1)]).W ∧
    IsTriple (busyAt 32 [(1, 1)]).W 13 17 5 ∧ 1 = (busyAt 32 [(1, 1)]).reg 1 ∧
    8193 = 1 ^^^ (1 * 2 ^ 13 % 2 ^ 32) ∧ 8193 = 8193 ^^^ (8193 / 2 ^ 17 % 2 ^ 32) ∧
    270369 = 8193 ^^^ (8193 * 2 ^ 5 % 2 ^ 32) := by
  unfold WidthLegal IsTriple
  decide +kernel

theorem witness_XshRunsThreeSubSteps_triples :
    IsTriple 33 13 7 17 ∧ IsTriple 96 10 5 26 ∧ IsTriple 97 5 14 1 ∧ IsTriple 129 43 64 25 := by
  unfold IsTriple
  omega

theorem witness_DecodeAfterEncode : WellFormed (.shl 15 15 65535) = true := by decide

theorem witness_EncodeAfterDecode : decode 0x1FFCFFFF#32 = .ok (.shl 15 15 65535) := by decide

theorem witness_OpcodeRowsNeverOverlap :
    ∃ r ∈ opcodeRows, 0x0C48C000#32 &&& r.mask = r.pattern := by decide

theorem witness_IllegalWordsCompleteWithIllegal :
    (opField (pendingWord 0x30000000#32).pend.word).toNat = 0x0C ∧
    (opField (pendingWord 0x4C000000#32).pend.word).toNat = 0x13 ∧
    (opField (pendingWord 0xFC000000#32).pend.word).toNat = 0x3F ∧
    ∃ r ∈ opcodeRows, opField (pendingWord 0x00000001#32).pend.word = opField r.pattern ∧
      (pendingWord 0x00000001#32).pend.word &&& r.mask ≠ r.pattern := by decide

theorem witness_IllegalWordsCompleteWithIllegal_idle :
    State.reset.busy = false ∧ State.reset.status.err = false := ⟨rfl, rfl⟩

theorem witness_StepRunsDecodedCommand :
    (({ pendingWord 0x0C48C000#32 with inputs := [.engineTurn] } : State).inputs = .engineTurn :: [] ∧
      (pendingWord 0x0C48C000#32).busy = true ∧ decode (pendingWord 0x0C48C000#32).pend.word = .ok (.add 1 2 3)) ∧
    ((pendingWord 0x30000000#32).inputs = [] ∧ (pendingWord 0x30000000#32).busy = true ∧
      ∀ r ∈ opcodeRows, (pendingWord 0x30000000#32).pend.word &&& r.mask ≠ r.pattern) ∧
    ((facing .engineTurn).inputs = .engineTurn :: [] ∧ (facing .engineTurn).busy = false) := by decide

/-- One pending word for each check that can be the first to fail, and one for which all pass. -/
theorem witness_FirstFailingCheckGivesTheCode :
    (∀ r ∈ opcodeRows, (pendingWord 0x30000000#32).pend.word &&& r.mask ≠ r.pattern) ∧
    (decode (pendingWord 0x68880000#32).pend.word = .ok (.xsh 2 2) ∧
      WidthFails (.xsh 2 2) (pendingWord 0x68880000#32)) ∧
    (¬WidthFails (.xsh 2 2) (busyAt 8 [(2, 256)]) ∧ RangeFails (.xsh 2 2) (busyAt 8 [(2, 256)])) ∧
    (¬WidthFails (.mod 7 8 9) (busyAt 0 []) ∧ ¬RangeFails (.mod 7 8 9) (busyAt 0 []) ∧
      ModulusFails (.mod 7 8 9) (busyAt 0 [])) ∧
    (¬ModulusFails (.mul 4 5 6) (busyAt 0 [(5, 2 ^ 4096), (6, 2 ^ 4096)]) ∧
      ExactFails (.mul 4 5 6) (busyAt 0 [(5, 2 ^ 4096), (6, 2 ^ 4096)])) ∧
    ¬ExactFails (.mul 4 5 6) (busyAt 0 []) := by
  refine ⟨by decide, ⟨by decide, trivial, by unfold WidthLegal; decide⟩,
    ⟨fun h => h.2 (by unfold WidthLegal; decide), 2, rfl, by decide +kernel⟩,
    ⟨fun h => h.1, fun ⟨_, h, _⟩ => h, 9, rfl, by decide⟩,
    ⟨fun ⟨_, h, _⟩ => h, _, rfl, by decide +kernel⟩, fun h => ?_⟩
  obtain ⟨v, hv, hle⟩ := h
  rw [show v = 0 from hv] at hle
  exact absurd hle (by decide +kernel)

theorem witness_FaultCompletionIsPrecise :
    (pendingWord 0x30000000#32).status.err = false ∧
    ∃ t, engineStep (pendingWord 0x30000000#32) = .next t ∧ t.status.err = true := ⟨rfl, _, rfl, rfl⟩

theorem witness_OnlyCmpOrResetChangesFlags :
    ∃ t, step (pendingWord 0x28000000#32) = .next t ∧ t.status.eq ≠ (pendingWord 0x28000000#32).status.eq :=
  ⟨_, rfl, by decide⟩

theorem witness_RegistersChangeOnlyThreeWays :
    (∃ t, step (pendingWord 0x09C00001#32) = .next t ∧ t.reg 7 ≠ (pendingWord 0x09C00001#32).reg 7) ∧
    (∃ t, step (facing (memWrite Params.default 0x13FC 1#32)) = .next t ∧
      t.reg 0 ≠ (facing (memWrite Params.default 0x13FC 1#32)).reg 0) ∧
    (∃ t, step ((facing .hardwareReset).setReg 5 9) = .next t ∧ t.reg 5 ≠ ((facing .hardwareReset).setReg 5 9).reg 5) :=
  ⟨⟨_, rfl, by decide +kernel⟩, ⟨_, rfl, by decide +kernel⟩, ⟨_, rfl, by decide +kernel⟩⟩

theorem witness_OperandsFixedWhileBusy :
    Presents (busyFacing (.access (.write 0x1000 .word 7#32))) (.write 0x1000 .word 7#32) [] ∧
    (busyFacing (.access (.write 0x1000 .word 7#32))).busy = true ∧
    ∃ t, step (busyFacing (.access (.write 0x1000 .word 7#32))) = .next t := ⟨rfl, rfl, _, rfl⟩

/-- Two states that differ in a register the command does not read, in W and in IE. -/
theorem witness_ResultDependsOnNamedStateOnly :
    (∀ r ∈ sources (.add 1 2 3), (busyAt 8 [(2, 5)]).reg r = (busyAt 9 [(2, 5), (6, 7)]).reg r) ∧
    ¬IsWCommand (.add 1 2 3) ∧ (busyAt 8 [(2, 5)]).params = (busyAt 9 [(2, 5), (6, 7)]).params ∧
    (busyAt 8 [(2, 5)]).status.err = false ∧ (busyAt 9 [(2, 5), (6, 7)]).status.err = false ∧
    (busyAt 8 [(2, 5)]).status.errcode = (busyAt 9 [(2, 5), (6, 7)]).status.errcode ∧
    (∃ t, exec (.add 1 2 3) (busyAt 8 [(2, 5)]) = .next t) ∧
    ∃ t, exec (.add 1 2 3) (busyAt 9 [(2, 5), (6, 7)]) = .next t :=
  ⟨by decide, fun h => h, rfl, rfl, rfl, rfl, ⟨_, rfl⟩, ⟨_, rfl⟩⟩

theorem witness_CommandsLeaveOtherApertureBytes :
    (∃ t, exec (.ldi 0 5) (busyAt 8 []) = .next t) ∧ (busyAt 8 []).params.regBits % 32 = 0 ∧
    0x00B < 0x00C ∧ 0x010 < 0x1000 ∧ 0x0FFF < 0x1000 ∧ 0x1000 + (busyAt 8 []).params.regBits / 8 ≤ 0x1400 ∧
    0x7FFF < apertureSize := ⟨⟨_, rfl⟩, by decide⟩

theorem witness_WrongSizeOrAlignmentRefused :
    0x7FFF < apertureSize ∧ 0x7FFF % 4 ≠ 0 ∧ Size.half ≠ Size.word ∧
    Presents (facing (.access (.read 0x7FFF .word)))
        (portRead (facing (.access (.read 0x7FFF .word))) 0x7FFF .word) [] ∧
    Presents (facing (.access (.write 0x0014 .half 0#32)))
        (portWrite (facing (.access (.write 0x0014 .half 0#32))) 0x0014 .half 0#32) [] :=
  ⟨by decide, by decide, by decide, rfl, rfl⟩

theorem witness_CmdWriteAcceptedOrDropped :
    (Presents (facing (memWrite Params.default 0x010 5#32))
        (portWrite (facing (memWrite Params.default 0x010 5#32)) 0x010 .word 5#32) [] ∧
      (facing (memWrite Params.default 0x010 5#32)).busy = false ∧
      (facing (memWrite Params.default 0x010 5#32)).status.err = false) ∧
    (Presents (busyFacing (memWrite Params.default 0x010 5#32))
        (portWrite (busyFacing (memWrite Params.default 0x010 5#32)) 0x010 .word 5#32) [] ∧
      (busyFacing (memWrite Params.default 0x010 5#32)).busy = true) := ⟨⟨rfl, rfl, rfl⟩, rfl, rfl⟩

theorem witness_DataReadReturnsWordOfSelectedRegister :
    State.reset.params.Legal ∧ 0 < State.reset.params.regBits / 32 ∧ 255 < State.reset.params.regBits / 32 ∧
    (Presents (facing (memRead Params.default 0x13FC))
        (portRead (facing (memRead Params.default 0x13FC)) (0x1000 + 4 * 255) .word) [] ∧
      (facing (memRead Params.default 0x13FC)).busy = false) ∧
    (Presents (busyFacing (memRead Params.default 0x1000))
        (portRead (busyFacing (memRead Params.default 0x1000)) (0x1000 + 4 * 0) .word) [] ∧
      (busyFacing (memRead Params.default 0x1000)).busy = true) :=
  ⟨by decide, by decide, by decide, ⟨rfl, rfl⟩, rfl, rfl⟩

theorem witness_DataWriteReplacesExactlyOneWord :
    State.reset.params.Legal ∧ 255 < State.reset.params.regBits / 32 ∧
    (Presents (facing (memWrite Params.default 0x13FC 5#32))
        (portWrite (facing (memWrite Params.default 0x13FC 5#32)) (0x1000 + 4 * 255) .word 5#32) [] ∧
      (facing (memWrite Params.default 0x13FC 5#32)).busy = false) ∧
    (Presents (busyFacing (memWrite Params.default 0x1000 5#32))
        (portWrite (busyFacing (memWrite Params.default 0x1000 5#32)) (0x1000 + 4 * 0) .word 5#32) [] ∧
      (busyFacing (memWrite Params.default 0x1000 5#32)).busy = true) :=
  ⟨by decide, by decide, ⟨rfl, rfl⟩, rfl, rfl⟩

theorem witness_DataReadAfterDataWrite :
    State.reset.params.Legal ∧ 0 < State.reset.params.regBits / 32 ∧ 255 < State.reset.params.regBits / 32 ∧
    (facing (memWrite Params.default 0x13FC 5#32)).busy = false ∧
    Presents (facing (memWrite Params.default 0x13FC 5#32))
        (portWrite (facing (memWrite Params.default 0x13FC 5#32)) (0x1000 + 4 * 255) .word 5#32) [] ∧
    ∃ t, step (facing (memWrite Params.default 0x13FC 5#32)) = .next t :=
  ⟨by decide, by decide, by decide, rfl, rfl, _, rfl⟩

theorem witness_ReservedOffsetsReadZeroIgnoreWrites :
    0x01C % 4 = 0 ∧ 0x7FFC % 4 = 0 ∧ 0x7FFC < apertureSize ∧ 0x1000 + State.reset.params.regBits / 8 ≤ 0x1400 ∧
    Presents (facing (memRead Params.default 0x01C)) (portRead (facing (memRead Params.default 0x01C)) 0x01C .word) [] ∧
    Presents (facing (memWrite Params.default 0x1400 5#32))
        (portWrite (facing (memWrite Params.default 0x1400 5#32)) 0x1400 .word 5#32) [] ∧
    Presents (facing (memWrite Params.default 0x004 5#32))
        (portWrite (facing (memWrite Params.default 0x004 5#32)) 0x004 .word 5#32) [] :=
  ⟨by decide, by decide, by decide, by decide, rfl, rfl, rfl⟩

theorem witness_ReadsHaveNoOtherSideEffect :
    0x7FFC < apertureSize ∧ Presents (facing (memRead Params.default 0x7FFC))
        (portRead (facing (memRead Params.default 0x7FFC)) 0x7FFC .word) [] ∧
    Presents (busyFacing (memRead Params.default 0x13FC))
        (portRead (busyFacing (memRead Params.default 0x13FC)) 0x13FC .word) [] ∧
    (busyFacing (memRead Params.default 0x13FC)).busy = true ∧ 0x13FC < 0x1000 + State.reset.params.regBits / 8 :=
  ⟨by decide, rfl, rfl, rfl, by decide⟩

theorem witness_IdAndParamAreHardwired :
    Presents (facing (memRead Params.default 0x000)) (portRead (facing (memRead Params.default 0x000)) 0x000 .word) [] ∧
    (State.reset.params.Legal ∧ Presents (facing (memRead Params.default 0x004))
        (portRead (facing (memRead Params.default 0x004)) 0x004 .word) [] ∧
      State.reset.params.maxw = 4096) ∧
    Presents (facing (memWrite Params.default 0x000 5#32))
        (portWrite (facing (memWrite Params.default 0x000 5#32)) 0x000 .word 5#32) [] :=
  ⟨rfl, ⟨by decide, rfl, rfl⟩, rfl⟩

theorem witness_CtrlStoresInterruptEnable :
    (Presents (facing (memWrite Params.default 0x008 1#32))
        (portWrite (facing (memWrite Params.default 0x008 1#32)) 0x008 .word 1#32) [] ∧
      (1#32 : Word)[1] = false) ∧
    (Presents (facing (memWrite Params.default 0x008 3#32))
        (portWrite (facing (memWrite Params.default 0x008 3#32)) 0x008 .word 3#32) [] ∧
      (3#32 : Word)[1] = true) ∧
    Presents (facing (memRead Params.default 0x008))
        (portRead (facing (memRead Params.default 0x008)) 0x008 .word) [] :=
  ⟨⟨rfl, by decide⟩, ⟨rfl, by decide⟩, rfl⟩

theorem witness_WidthStoresSixteenBits :
    (Presents (facing (memWrite Params.default 0x014 8#32))
        (portWrite (facing (memWrite Params.default 0x014 8#32)) 0x014 .word 8#32) [] ∧
      (facing (memWrite Params.default 0x014 8#32)).busy = false) ∧
    (Presents (busyFacing (memWrite Params.default 0x014 8#32))
        (portWrite (busyFacing (memWrite Params.default 0x014 8#32)) 0x014 .word 8#32) [] ∧
      (busyFacing (memWrite Params.default 0x014 8#32)).busy = true) ∧
    Presents (facing (memRead Params.default 0x014))
        (portRead (facing (memRead Params.default 0x014)) 0x014 .word) [] :=
  ⟨⟨rfl, rfl⟩, ⟨rfl, rfl⟩, rfl⟩

theorem witness_RselStoresFourBits :
    Presents (busyFacing (memWrite Params.default 0x018 31#32))
        (portWrite (busyFacing (memWrite Params.default 0x018 31#32)) 0x018 .word 31#32) [] ∧
    Presents (facing (memRead Params.default 0x018))
        (portRead (facing (memRead Params.default 0x018)) 0x018 .word) [] := ⟨rfl, rfl⟩

theorem witness_StatusReadShowsEveryField :
    Presents (busyFacing (memRead Params.default 0x00C))
        (portRead (busyFacing (memRead Params.default 0x00C)) 0x00C .word) [] := rfl

theorem witness_StatusWriteClearsOnes :
    Presents (facing (memWrite Params.default 0x00C 0x1E#32))
        (portWrite (facing (memWrite Params.default 0x00C 0x1E#32)) 0x00C .word 0x1E#32) [] := rfl

theorem witness_CmdReadsLastAcceptedWord :
    Presents (facing (memRead Params.default 0x010)) (portRead (facing (memRead Params.default 0x010)) 0x010 .word) [] ∧
    ∃ t, step (facing (memWrite Params.default 0x010 5#32)) = .next t ∧
      t.cmd ≠ (facing (memWrite Params.default 0x010 5#32)).cmd := ⟨rfl, _, rfl, by decide⟩

/-- An accepted CMD write, one dropped for BUSY = 1, and one dropped for ERR = 1. -/
theorem witness_CmdReadsLastAcceptedWord_writes :
    (Presents (facing (memWrite Params.default 0x010 5#32))
        (portWrite (facing (memWrite Params.default 0x010 5#32)) 0x010 .word 5#32) [] ∧
      (facing (memWrite Params.default 0x010 5#32)).busy = false ∧
      (facing (memWrite Params.default 0x010 5#32)).status.err = false) ∧
    (Presents (busyFacing (memWrite Params.default 0x010 5#32))
        (portWrite (busyFacing (memWrite Params.default 0x010 5#32)) 0x010 .word 5#32) [] ∧
      (busyFacing (memWrite Params.default 0x010 5#32)).busy = true) ∧
    (Presents ((facing (memWrite Params.default 0x010 5#32)).recordFault .illegal)
        (portWrite ((facing (memWrite Params.default 0x010 5#32)).recordFault .illegal) 0x010 .word 5#32) [] ∧
      ((facing (memWrite Params.default 0x010 5#32)).recordFault .illegal).status.err = true) :=
  ⟨⟨rfl, rfl, rfl⟩, ⟨rfl, rfl⟩, rfl, rfl⟩

theorem witness_AccessOutsideApertureLeavesBlock :
    State.reset.params.base + apertureSize ≤ 0x8000 ∧
    Presents (facing (.access (.read 0x8000 .word))) (.read 0x8000 .word) [] ∧
    0x7FFC < ({ State.reset with params := { maxw := 4096, base := 0x8000 } } : State).params.base :=
  ⟨by decide, rfl, by decide⟩

theorem witness_InterruptFollowsDoneAndEnable :
    (∃ t, engineStep (pendingWord 0x00000000#32) = .next t) ∧
    (∃ t, step (facing (memWrite Params.default 0x00C 2#32)) = .next t) ∧ (2#32 : Word)[1] = true ∧
    Presents (facing (memWrite Params.default 0x00C 2#32))
        (portWrite (facing (memWrite Params.default 0x00C 2#32)) 0x00C .word 2#32) [] ∧
    (∃ t, step (facing (memWrite Params.default 0x010 5#32)) = .next t) ∧
    Presents (facing (memWrite Params.default 0x010 5#32))
        (portWrite (facing (memWrite Params.default 0x010 5#32)) 0x010 .word 5#32) [] ∧
    (∃ t, step (facing .hardwareReset) = .next t) ∧ IsReset (facing .hardwareReset) [] :=
  ⟨⟨_, rfl⟩, ⟨_, rfl⟩, by decide, rfl, ⟨_, rfl⟩, rfl, ⟨_, rfl⟩, .inl rfl⟩

theorem witness_EitherResetGivesTheResetTable :
    IsReset (busyFacing .hardwareReset) [] ∧ IsReset (busyFacing (memWrite Params.default 0x008 2#32)) [] :=
  ⟨.inl rfl, .inr ⟨2#32, by decide, rfl⟩⟩

theorem witness_SoftResetAbandonsPendingCommand :
    (3#32 : Word)[1] = true ∧
    Presents (busyFacing (memWrite Params.default 0x008 3#32))
        (portWrite (busyFacing (memWrite Params.default 0x008 3#32)) 0x008 .word 3#32) [] :=
  ⟨by decide, rfl⟩

theorem witness_InvariantHoldsAtReset :
    ({ maxw := 4096, base := 0 } : Params).Legal ∧ ({ maxw := 65520, base := 0x8000 } : Params).Legal := by decide

/-- A state with a command pending, registers at their bound, and a step. -/
theorem witness_EveryStepKeepsInvariant :
    State.Inv (busyAt 8 [(1, 2 ^ 8192 - 1)]) ∧ ∃ t, step (busyAt 8 [(1, 2 ^ 8192 - 1)]) = .next t where
  left :=
    { params_legal := by decide
      regs_bound := by decide +kernel
      busy_not_done := fun _ => rfl
      busy_not_err := fun _ => rfl
      no_err_no_code := fun _ => rfl
      err_code := fun h => absurd h (by decide)
      flags_exclusive := by decide
      pend_word_is_cmd := rfl
      busy_width := fun _ => rfl }
  right := ⟨_, rfl⟩

theorem witness_ErrKeepsDoneUntilHostClearsIt :
    (∃ t, step (pendingWord 0x30000000#32) = .next t ∧ t.status.err = true) ∧
    ((pendingWord 0x30000000#32).status.err = true → (pendingWord 0x30000000#32).status.done = true) :=
  ⟨⟨_, rfl, rfl⟩, by decide⟩

/-- A run that has ended with an idle turn, or with a hardware reset, still scheduled; one that has not: an access is left. -/
theorem witness_EveryScheduleRunsToItsEnd :
    (Ended { idleAt 8 [(1, 42)] with inputs := [.engineTurn, .hardwareReset] } ∧
      ∃ t, step { idleAt 8 [(1, 42)] with inputs := [.engineTurn, .hardwareReset] } = .next t) ∧
    (Ended { idleAt 8 [(1, 42)] with inputs := [.hardwareReset] } ∧
      ∃ t, step { idleAt 8 [(1, 42)] with inputs := [.hardwareReset] } = .next t) ∧
    ¬Ended (facing (memRead Params.default 0x00C)) :=
  ⟨⟨⟨by simp [HostDone], rfl⟩, _, rfl⟩, ⟨⟨by simp [HostDone], rfl⟩, _, rfl⟩, fun h => h.1 _ List.mem_cons_self⟩

theorem witness_SquaringChainIsOneExponentiation :
    (idleAt 0 [(0, 561), (3, 35), (4, 2)]).busy = false ∧
    (idleAt 0 [(0, 561), (3, 35), (4, 2)]).status.err = false ∧
    (5 : RegIx) ≠ 0 ∧ (idleAt 0 [(0, 561), (3, 35), (4, 2)]).reg 0 ≠ 0 := by decide

theorem witness_GeneratorIteratesItsStep :
    ReadyAtLegalWidth (idleAt 8 [(1, 42)]) ∧ (idleAt 8 [(1, 42)]).reg 1 < 2 ^ (idleAt 8 [(1, 42)]).width.toNat ∧
    (1 : RegIx) ≠ 2 ∧ (1 : RegIx) ≠ 3 ∧ IsTriple (idleAt 8 [(1, 42)]).width.toNat 13 17 5 := by
  unfold ReadyAtLegalWidth IsTriple
  decide +kernel

theorem witness_CandidateHasBitLengthWStatesStayBelow :
    WidthLegal (busyAt 1 [(1, 1)]) ∧ (busyAt 1 [(1, 1)]).reg 1 < 2 ^ (busyAt 1 [(1, 1)]).W := by
  unfold WidthLegal
  decide +kernel

theorem witness_ShortFormsEqualLongForms :
    (busyAt 8 [(2, 1103515245), (3, 12345)]).reg 2 = 1103515245 ∧
    (busyAt 8 [(2, 1103515245), (3, 12345)]).reg 3 = 12345 := by decide +kernel

theorem witness_XorshiftFixedPoints :
    (WidthLegal (busyAt 4096 []) ∧ (busyAt 4096 []).reg 2 = 0) ∧
    (WidthLegal (busyAt 5 [(2, 31)]) ∧ (busyAt 5 [(2, 31)]).W ≤ 5 ∧
      (busyAt 5 [(2, 31)]).reg 2 < 2 ^ (busyAt 5 [(2, 31)]).W) := by
  unfold WidthLegal
  decide +kernel

end Sys2Proof.Tests
end

/-! PROOFS. 00_scope.md R10: the result of a command as a function of the state, what that function reads, and which kind
of result each command can have. -/

namespace Sys2Proof.Proofs

open Sys2Proof.Machine Sys2Proof.Claims Sys2Proof.Laws

/-! ### The operand checks read W, MAXW and R[rs1] only (30_encoding.md R88; 42_prng.md R160) -/

theorem withWidth_congr {s s' : State} (k : Nat → Result) (hp : s.params = s'.params) (hW : s.W = s'.W) :
    s.withWidth k = s'.withWidth k := by
  simp only [State.withWidth, hp, hW]

theorem withRanged_congr {s s' : State} {rs1 : RegIx} (k : Nat → Nat → Result) (hp : s.params = s'.params)
    (hW : s.W = s'.W) (hx : s.reg rs1 = s'.reg rs1) : s.withRanged rs1 k = s'.withRanged rs1 k := by
  simp only [State.withRanged, hx]
  exact withWidth_congr _ hp hW

/-! ### A result that writes the named register or is a fault (30_encoding.md R86) -/

/-- `Ok(rd, v)` for some `v`, or `Fault(code)`. -/
def WritesOrFaults (rd : RegIx) (r : Result) : Prop := (∃ v, r = .write rd v) ∨ ∃ c, r = .fault c

theorem writesOrFaults_write (rd : RegIx) (v : Nat) : WritesOrFaults rd (.write rd v) := .inl ⟨v, rfl⟩

theorem writesOrFaults_fault (rd : RegIx) (c : FaultCode) : WritesOrFaults rd (.fault c) := .inr ⟨c, rfl⟩

theorem writesOrFaults_exactResult (b : Nat) (rd : RegIx) (v : Nat) : WritesOrFaults rd (exactResult b rd v) := by
  by_cases h : v < 2 ^ b
  · exact exactResult_fits h ▸ writesOrFaults_write rd v
  · exact exactResult_overflow (Nat.le_of_not_lt h) ▸ writesOrFaults_fault rd _

theorem writesOrFaults_withModulus {rd : RegIx} {k : Nat → Result} (n : Nat) (hk : ∀ n, WritesOrFaults rd (k n)) :
    WritesOrFaults rd (withModulus n k) := by
  by_cases h : n = 0
  · exact h ▸ writesOrFaults_fault rd _
  · exact withModulus_pos h ▸ hk n

theorem writesOrFaults_withWidth {rd : RegIx} {k : Nat → Result} (s : State) (hk : ∀ w, WritesOrFaults rd (k w)) :
    WritesOrFaults rd (s.withWidth k) := by
  by_cases h : 1 ≤ s.W ∧ s.W ≤ s.params.maxw
  · exact withWidth_legal s h ▸ hk s.W
  · exact withWidth_illegal s h ▸ writesOrFaults_fault rd _

theorem writesOrFaults_withRanged {rd rs1 : RegIx} {k : Nat → Nat → Result} (s : State)
    (hk : ∀ w x, WritesOrFaults rd (k w x)) : WritesOrFaults rd (s.withRanged rs1 k) := by
  refine writesOrFaults_withWidth s fun w => ?_
  split
  · exact writesOrFaults_fault rd _
  · exact hk w _

/-! ### The result of a command (00_scope.md R10) -/

/-- What evaluating the row's rule gives in state `s`, before completion. -/
def commandResult (s : State) : Instr → Result
  | .nop => .nothing
  | .mov rd rs1 => .write rd (s.reg rs1)
  | .ldi rd imm => .write rd (immOperand imm)
  | .add rd rs1 rs2 => exactResult s.params.regBits rd (s.reg rs1 + s.reg rs2)
  | .mul rd rs1 rs2 => exactResult s.params.regBits rd (s.reg rs1 * s.reg rs2)
  | .mod rd rs1 rs2 => withModulus (s.reg rs2) fun n => .write rd (s.reg rs1 % n)
  | .mask rd rs1 => s.withWidth fun w => .write rd (s.reg rs1 % 2 ^ w)
  | .shl rd rs1 imm => s.withWidth fun w => .write rd ((s.reg rs1 <<< immOperand imm) % 2 ^ w)
  | .shr rd rs1 imm => s.withWidth fun w => .write rd ((s.reg rs1 >>> immOperand imm) % 2 ^ w)
  | .xor rd rs1 rs2 => .write rd (s.reg rs1 ^^^ s.reg rs2)
  | .cmp rs1 rs2 => compareResult (s.reg rs1) (s.reg rs2)
  | .topbit rd rs1 => s.withRanged rs1 fun w x => .write rd (x ||| 2 ^ (w - 1))
  | .modmul rd rs1 rs2 rs3 => withModulus (s.reg rs3) fun n => .write rd (s.reg rs1 * s.reg rs2 % n)
  | .modsqr rd rs1 rs2 => withModulus (s.reg rs2) fun n => .write rd (s.reg rs1 * s.reg rs1 % n)
  | .modexp rd rs1 rs2 rs3 => withModulus (s.reg rs3) fun n => .write rd (modPow (s.reg rs1) (s.reg rs2) n)
  | .lcg rd rs1 rs2 rs3 => s.withRanged rs1 fun w x => .write rd (lcgStep w (s.reg rs2) (s.reg rs3) x)
  | .lcgd rd rs1 => s.withRanged rs1 fun w x => .write rd (lcgStep w lcgMultiplier lcgIncrement x)
  | .xsh rd rs1 => s.withRanged rs1 fun w x => .write rd (xorshiftStep w x)

/-- `commandResult` is the result that the model completes with: `exec` evaluates and completes (30_encoding.md R86). -/
theorem exec_eq_complete (i : Instr) (s : State) : exec i s = .next (s.complete (commandResult s i)) := by
  cases i <;> rfl

theorem eq_complete_of_exec {i : Instr} {s t : State} (h : exec i s = .next t) : t = s.complete (commandResult s i) := by
  rw [exec_eq_complete] at h
  exact (Host.Outcome.next.inj h).symm

/-- The heart of R10: each command's result is fixed by its source registers, by W where it is a W-command, and by the
build parameters. -/
theorem commandResult_congr {i : Instr} {s s' : State} (hsrc : ∀ r ∈ sources i, s.reg r = s'.reg r)
    (hW : IsWCommand i → s.W = s'.W) (hp : s.params = s'.params) : commandResult s i = commandResult s' i := by
  cases i with
  | nop | ldi => rfl
  | mov | add | mul | mod | xor | cmp | modmul | modsqr | modexp =>
    simp only [sources, List.forall_mem_cons] at hsrc
    simp only [commandResult, hsrc, hp]
  | mask | shl | shr =>
    simp only [sources, List.forall_mem_cons] at hsrc
    simp only [commandResult, hsrc]
    exact withWidth_congr _ hp (hW trivial)
  | topbit | lcg | lcgd | xsh =>
    simp only [sources, List.forall_mem_cons] at hsrc
    simp only [commandResult, hsrc]
    exact withRanged_congr _ hp (hW trivial) hsrc.1

/-- A command with a destination register writes that register or faults. -/
theorem commandResult_of_destination {i : Instr} {rd : RegIx} (h : destination i = some rd) (s : State) :
    WritesOrFaults rd (commandResult s i) := by
  cases i with
  | nop | cmp => cases h
  | mov | ldi | xor => cases h; exact writesOrFaults_write ..
  | add | mul => cases h; exact writesOrFaults_exactResult ..
  | mod | modmul | modsqr | modexp =>
    cases h; exact writesOrFaults_withModulus _ fun _ => writesOrFaults_write ..
  | mask | shl | shr => cases h; exact writesOrFaults_withWidth s fun _ => writesOrFaults_write ..
  | topbit | lcg | lcgd | xsh => cases h; exact writesOrFaults_withRanged s fun _ _ => writesOrFaults_write ..

/-! ### Completing two states with one result (60_exceptions.md R213, R214) -/

theorem complete_err_congr {s s' : State} (r : Result) (h : s.status.err = s'.status.err) :
    (s.complete r).status.err = (s'.complete r).status.err := by
  cases r with
  | write | flags | nothing => exact h
  | fault => rfl

theorem complete_errcode_congr {s s' : State} (r : Result) (h : s.status.errcode = s'.status.errcode) :
    (s.complete r).status.errcode = (s'.complete r).status.errcode := by
  cases r with
  | write | flags | nothing => exact h
  | fault => rfl

theorem complete_reg_congr {s s' : State} {rd : RegIx} {r : Result} (hr : WritesOrFaults rd r)
    (hok : (s.complete r).status.err = false) : (s.complete r).reg rd = (s'.complete r).reg rd := by
  obtain ⟨v, rfl⟩ | ⟨c, rfl⟩ := hr
  · exact (complete_write s rd v).written.trans (complete_write s' rd v).written.symm
  · exact absurd ((complete_fault s c).err.symm.trans hok) (by decide)

/-- Settles O31: both states complete with one and the same result (`commandResult_congr`), and the fault, the destination
and CMP's flags are the result's own. -/
theorem resultDependsOnNamedStateOnly : Obligations.ResultDependsOnNamedStateOnly := by
  intro i s s' t t' hsrc hW hp herr herr' hcode ht ht'
  have hr : commandResult s' i = commandResult s i := (commandResult_congr hsrc hW hp).symm
  obtain rfl := eq_complete_of_exec ht
  obtain rfl := eq_complete_of_exec ht'
  rw [hr]
  refine ⟨complete_err_congr _ (herr.trans herr'.symm), complete_errcode_congr _ hcode, ?destination, ?flags⟩
  case destination =>
    intro rd hrd hok
    exact complete_reg_congr (commandResult_of_destination hrd s) hok
  case flags =>
    rintro rs1 rs2 rfl
    exact ⟨rfl, rfl⟩

end Sys2Proof.Proofs

/-! PROOFS. 10_state.md R20: what one step can do to the block's own state, said once, with the event that does it. -/

namespace Sys2Proof.Proofs

open Sys2Proof.Machine Sys2Proof.Claims Sys2Proof.Laws

/-! ### The environment beside the block

The inputs and the responses are not the block's state (log entries 3 and 4): no operation of the block reads them. -/

/-- `s` among other inputs and responses. -/
def inEnvironment (s : State) (l : List Input) (r : List Response) : State := { s with inputs := l, responses := r }

theorem complete_inEnvironment (s : State) (l : List Input) (q : List Response) (r : Result) :
    (inEnvironment s l q).complete r = inEnvironment (s.complete r) l q := by
  cases r <;> rfl

theorem commandResult_inEnvironment (s : State) (l : List Input) (r : List Response) (i : Instr) :
    commandResult (inEnvironment s l r) i = commandResult s i :=
  commandResult_congr (fun _ _ => rfl) (fun _ => rfl) rfl

/-! ### The effects -/

/-- What a step that starts in `s` can leave of the block, `s'` being the block's state among the inputs and responses of
`s`. An effect on a register, a flag, CMD or DONE carries the event it is due to, and its guards. -/
inductive Effect (s : State) : State → Prop where
  /-- A read, a write that R58 ignores, an access elsewhere, an idle turn. -/
  | unchanged : Effect s s
  /-- 20_memory.md R53, R57. -/
  | refuse : Effect s s.refuseAccess
  /-- 10_state.md R39. -/
  | reset (rest : List Input) (event : IsReset s rest) : Effect s s.toReset
  /-- 10_state.md R28. -/
  | storeIe (b : Bool) : Effect s { s with ie := b }
  /-- 10_state.md R32. -/
  | clearStatus (v : Word) (rest : List Input) (event : Presents s (portWrite s 0x00C .word v) rest) :
      Effect s (s.writeStatus v)
  /-- 20_memory.md R54. -/
  | accept (v : Word) (rest : List Input) (event : Presents s (portWrite s 0x010 .word v) rest)
      (idle : s.busy = false) (noErr : s.status.err = false) : Effect s (s.accept v)
  /-- 20_memory.md R54. -/
  | drop : Effect s s.dropCommand
  /-- 10_state.md R29. -/
  | storeWidth (w : BitVec 16) (idle : s.busy = false) : Effect s { s with width := w }
  /-- 10_state.md R30. -/
  | storeRsel (v : Word) : Effect s (s.writeRsel v)
  /-- 20_memory.md R56. -/
  | storeData (v : Word) (off : Nat) (rest : List Input) (event : Presents s (portWrite s off .word v) rest)
      (low : 0x1000 ≤ off) (high : off < 0x1000 + s.params.regBits / 8) (idle : s.busy = false) :
      Effect s (s.setReg s.rsel (replaceDataWord (s.reg s.rsel) ((off - 0x1000) / 4) v))
  /-- 30_encoding.md R86. -/
  | command (i : Instr) (turn : EnginesTurn s) (busy : s.busy = true) (decoded : decode s.pend.word = .ok i) :
      Effect s (s.complete (commandResult s i))
  /-- 30_encoding.md R89. -/
  | illegal (turn : EnginesTurn s) (busy : s.busy = true) : Effect s (s.complete (.fault .illegal))

/-- `t` is `s` after one of the effects, whatever the inputs and responses of `t` are. -/
def Follows (s t : State) : Prop := ∃ s' l r, Effect s s' ∧ t = inEnvironment s' l r

theorem Effect.follows {s s' : State} (e : Effect s s') (l : List Input) (r : List Response) :
    Follows s (inEnvironment s' l r) := ⟨s', l, r, e, rfl⟩

/-! ### The offsets of the register map (10_state.md R25) -/

/-- A register outside the DATA window stands at one offset. -/
theorem offset_of_target {p : Params} {off : Nat} :
    (target p off = .ctrl → off = 0x008) ∧ (target p off = .status → off = 0x00C) ∧
      (target p off = .cmd → off = 0x010) := by
  unfold target
  split_ifs <;> simp_all

/-! ### A host access -/

section access

variable {s : State} {rest : List Input}

theorem follows_read (off : Nat) (size : Size) (r : Response) :
    Follows s ((busRead { s with inputs := rest } off size).1.respond r) := by
  obtain h | h := busRead_state { s with inputs := rest } off size
  · rw [h]; exact Effect.unchanged.follows rest (r :: s.responses)
  · rw [h]; exact Effect.refuse.follows rest (r :: s.responses)

theorem follows_issue {v : Word} (r : Response) (h : Presents s (portWrite s 0x010 .word v) rest) :
    Follows s ((State.issue { s with inputs := rest } v).respond r) := by
  by_cases hi : s.busy = false ∧ s.status.err = false
  · rw [issue_accepted { s with inputs := rest } v hi]
    exact (Effect.accept v rest h hi.1 hi.2).follows rest (r :: s.responses)
  · have hd : s.busy = true ∨ s.status.err = true := by
      simpa only [not_and_or, Bool.not_eq_false] using hi
    rw [issue_dropped { s with inputs := rest } v hd]
    exact Effect.drop.follows rest (r :: s.responses)

theorem follows_writeCtrl {v : Word} (r : Response) (h : Presents s (portWrite s 0x008 .word v) rest) :
    Follows s ((State.writeCtrl { s with inputs := rest } v).respond r) := by
  cases hv : v[1] with
  | true =>
    rw [writeCtrl_reset _ hv]
    exact (Effect.reset rest (.inr ⟨v, hv, h⟩)).follows rest (r :: s.responses)
  | false =>
    rw [writeCtrl_store _ hv]
    exact (Effect.storeIe v[0]).follows rest (r :: s.responses)

theorem follows_writeWidth (v : Word) (r : Response) :
    Follows s ((State.writeWidth { s with inputs := rest } v).respond r) := by
  cases hb : s.busy with
  | true =>
    rw [writeWidth_busy { s with inputs := rest } hb]
    exact Effect.refuse.follows rest (r :: s.responses)
  | false =>
    rw [writeWidth_idle { s with inputs := rest } hb]
    exact (Effect.storeWidth _ hb).follows rest (r :: s.responses)

theorem follows_writeData {v : Word} {off i : Nat} (r : Response) (h : Presents s (portWrite s off .word v) rest)
    (ht : target s.params off = .data i) :
    Follows s ((State.writeData { s with inputs := rest } i v).respond r) := by
  obtain ⟨hlow, hhigh, rfl⟩ := target_data ht
  cases hb : s.busy with
  | true =>
    rw [writeData_busy { s with inputs := rest } hb]
    exact Effect.refuse.follows rest (r :: s.responses)
  | false =>
    rw [writeData_idle { s with inputs := rest } hb]
    exact (Effect.storeData v off rest h hlow hhigh hb).follows rest (r :: s.responses)

theorem follows_writeTarget {v : Word} {off : Nat} (r : Response) (h : Presents s (portWrite s off .word v) rest) :
    Follows s ((writeTarget { s with inputs := rest } v (target s.params off)).respond r) := by
  obtain ⟨hctrl, hstatus, hcmd⟩ := @offset_of_target s.params off
  cases ht : target s.params off with
  | id | param | reserved => exact Effect.unchanged.follows rest (r :: s.responses)
  | ctrl => exact follows_writeCtrl r (hctrl ht ▸ h)
  | status => exact (Effect.clearStatus v rest (hstatus ht ▸ h)).follows rest (r :: s.responses)
  | cmd => exact follows_issue r (hcmd ht ▸ h)
  | width => exact follows_writeWidth v r
  | rsel => exact (Effect.storeRsel v).follows rest (r :: s.responses)
  | data i => exact follows_writeData r h ht

theorem follows_write {v : Word} {off : Nat} {size : Size} (r : Response)
    (h : Presents s (portWrite s off size v) rest) :
    Follows s ((busWrite { s with inputs := rest } off size v).respond r) := by
  cases ha : accepted off size with
  | false =>
    rw [busWrite_refused _ ha]
    exact Effect.refuse.follows rest (r :: s.responses)
  | true =>
    obtain rfl : size = .word := by simp only [accepted, Bool.and_eq_true, beq_iff_eq] at ha; exact ha.1
    rw [busWrite_accepted _ ha]
    exact follows_writeTarget r h

theorem follows_access {a : Access} (h : Presents s a rest) : Follows s (hostAccess a { s with inputs := rest }) := by
  have elsewhere : Follows s { s with inputs := rest } := Effect.unchanged.follows rest s.responses
  cases a with
  | read addr size =>
    cases ho : portOffset s.params addr with
    | none => rw [hostAccess_read_elsewhere { s with inputs := rest } ho]; exact elsewhere
    | some off => rw [hostAccess_read { s with inputs := rest } ho]; exact follows_read off size _
  | write addr size v =>
    cases ho : portOffset s.params addr with
    | none => rw [hostAccess_write_elsewhere { s with inputs := rest } ho]; exact elsewhere
    | some off =>
      rw [hostAccess_write { s with inputs := rest } ho]
      obtain ⟨rfl, -⟩ := portOffset_some ho
      exact follows_write _ h

end access

/-! ### The engine step -/

theorem follows_engineStep {s t : State} {rest : List Input} (turn : EnginesTurn s) (busy : s.busy = true)
    (h : engineStep { s with inputs := rest } = .next t) : Follows s t := by
  have completes : ∀ r : Result,
      engineStep { s with inputs := rest } = .next ((inEnvironment s rest s.responses).complete r) →
      t = inEnvironment (s.complete r) rest s.responses := fun r hr => by
    rw [← complete_inEnvironment]
    exact Host.Outcome.next.inj (h.symm.trans hr)
  cases hd : decode s.pend.word with
  | ok i =>
    have hr := (engineStep_ok (s := { s with inputs := rest }) hd).trans (exec_eq_complete i _)
    rw [completes _ hr]
    exact commandResult_inEnvironment s rest s.responses i ▸ (Effect.command i turn busy hd).follows _ _
  | error e =>
    rw [completes _ (engineStep_illegal (s := { s with inputs := rest }) hd)]
    exact (Effect.illegal turn busy).follows _ _

/-! ### The step -/

/-- Every step has one of the effects. -/
theorem step_follows {s t : State} (h : step s = .next t) : Follows s t := by
  obtain ⟨a, rest, hi, rfl⟩ | ⟨rest, hi, rfl⟩ | ⟨rest, hi, ⟨hb, he⟩ | ⟨hb, rfl⟩⟩ := step_cases h
  · exact follows_access hi
  · exact (Effect.reset rest (.inl hi)).follows rest s.responses
  · have turn : EnginesTurn s := hi.imp And.left fun hr => ⟨rest, hr⟩
    exact follows_engineStep turn hb he
  · exact Effect.unchanged.follows rest s.responses

end Sys2Proof.Proofs

/-! PROOFS. The invariant of the machine's states (10_state.md R21, R31, R34; 40_bigint.md R108; 43_support.md R193;
60_exceptions.md R211): it holds at reset, and every step keeps it. -/

namespace Sys2Proof.Proofs

open Sys2Proof.Machine Sys2Proof.Claims Sys2Proof.Laws

/-! ### Results that fit the block

A register holds 2·MAXW bits, so every result below 2^MAXW fits, and so does every immediate. -/

/-- A value to write is below 2^b, and the two flags are not both set. -/
inductive ResultFits (b : Nat) : Result → Prop where
  | write (rd : RegIx) (v : Nat) (bound : v < 2 ^ b) : ResultFits b (.write rd v)
  | flags (eq lt : Bool) (exclusive : ¬(eq = true ∧ lt = true)) : ResultFits b (.flags eq lt)
  | nothing : ResultFits b .nothing
  | fault (c : FaultCode) : ResultFits b (.fault c)

theorem resultFits_exactResult (b : Nat) (rd : RegIx) (v : Nat) : ResultFits b (exactResult b rd v) := by
  by_cases h : v < 2 ^ b
  · rw [exactResult_fits h]; exact .write rd v h
  · rw [exactResult_overflow (Nat.le_of_not_lt h)]; exact .fault _

theorem resultFits_withModulus {b : Nat} (n : Nat) {k : Nat → Result} (hk : n ≠ 0 → ResultFits b (k n)) :
    ResultFits b (withModulus n k) := by
  by_cases h : n = 0
  · rw [h, withModulus_zero]; exact .fault _
  · rw [withModulus_pos h]; exact hk h

theorem resultFits_withWidth {b : Nat} (s : State) {k : Nat → Result}
    (hk : 1 ≤ s.W → s.W ≤ s.params.maxw → ResultFits b (k s.W)) : ResultFits b (s.withWidth k) := by
  by_cases h : 1 ≤ s.W ∧ s.W ≤ s.params.maxw
  · rw [withWidth_legal s h]; exact hk h.1 h.2
  · rw [withWidth_illegal s h]; exact .fault _

theorem resultFits_withRanged {b : Nat} (s : State) {rs1 : RegIx} {k : Nat → Nat → Result}
    (hk : 1 ≤ s.W → s.W ≤ s.params.maxw → s.reg rs1 < 2 ^ s.W → ResultFits b (k s.W (s.reg rs1))) :
    ResultFits b (s.withRanged rs1 k) := by
  refine resultFits_withWidth s fun h1 hmax => ?_
  split
  · exact .fault _
  · next hx => exact hk h1 hmax (Nat.lt_of_not_le hx)

theorem resultFits_compareResult (b x y : Nat) : ResultFits b (compareResult x y) := by
  refine .flags _ _ ?_
  rw [flagEq_iff, flagLt_iff]
  omega

theorem lt_regBits_of_lt_width {p : Params} {w v : Nat} (hw : w ≤ p.maxw) (hv : v < 2 ^ w) : v < 2 ^ p.regBits :=
  hv.trans_le (Nat.pow_le_pow_right (by decide) (by unfold Params.regBits; omega))

theorem immediate_lt_regBits {p : Params} {imm : Nat} (hp : p.Legal) (h : immFits imm = true) : imm < 2 ^ p.regBits := by
  have h16 : imm < 2 ^ 16 := by simpa [immFits] using h
  exact lt_regBits_of_lt_width (w := 16) (by obtain ⟨-, hmin, -⟩ := hp; omega) h16

/-- 40_bigint.md R108, 43_support.md R193: the result of a command fits the block. -/
theorem commandResult_fits {s : State} {i : Instr} (hs : s.Inv) (hi : WellFormed i = true) :
    ResultFits s.params.regBits (commandResult s i) := by
  have modTwoPow : ∀ x : Nat, s.W ≤ s.params.maxw → x % 2 ^ s.W < 2 ^ s.params.regBits := fun _ hmax =>
    lt_regBits_of_lt_width hmax (Nat.mod_lt _ (by positivity))
  have modReg : ∀ (r : RegIx) (x : Nat), s.reg r ≠ 0 → x % s.reg r < 2 ^ s.params.regBits := fun r x hn =>
    (Nat.mod_lt x (Nat.pos_of_ne_zero hn)).trans (hs.regs_bound r)
  cases i with
  | nop => exact .nothing
  | mov rd rs1 => exact .write _ _ (hs.regs_bound rs1)
  | ldi rd imm => exact .write _ _ (immediate_lt_regBits hs.params_legal hi)
  | add | mul => exact resultFits_exactResult ..
  | xor rd rs1 rs2 => exact .write _ _ (Nat.xor_lt_two_pow (hs.regs_bound rs1) (hs.regs_bound rs2))
  | cmp => exact resultFits_compareResult ..
  | mod | modmul | modsqr =>
    rw [commandResult]
    refine resultFits_withModulus _ fun hn => ?_
    exact .write _ _ (modReg _ _ hn)
  | modexp =>
    rw [commandResult]
    refine resultFits_withModulus _ fun hn => ?_
    rw [modPow_eq]
    exact .write _ _ (modReg _ _ hn)
  | mask | shl | shr =>
    rw [commandResult]
    refine resultFits_withWidth s fun _ hmax => ?_
    exact .write _ _ (modTwoPow _ hmax)
  | lcg | lcgd =>
    rw [commandResult]
    refine resultFits_withRanged s fun _ hmax _ => ?_
    exact .write _ _ (modTwoPow _ hmax)
  | xsh =>
    rw [commandResult]
    refine resultFits_withRanged s fun _ hmax hx => ?_
    exact .write _ _ (lt_regBits_of_lt_width hmax (xorshiftStep_lt _ _ hx))
  | topbit =>
    rw [commandResult]
    refine resultFits_withRanged s fun h1 hmax hx => ?_
    have hbit : 2 ^ (s.W - 1) < 2 ^ s.W := Nat.pow_lt_pow_right (by decide) (by omega)
    exact .write _ _ (lt_regBits_of_lt_width hmax (Nat.or_lt_two_pow hx hbit))

/-! ### The invariant and each operation -/

theorem faultCode_bounds (c : FaultCode) : 1 ≤ c.code.toNat ∧ c.code.toNat ≤ 4 := by
  cases c <;> decide

theorem inv_resetWith {p : Params} (hp : p.Legal) : State.Inv (State.resetWith p) where
  params_legal := hp
  regs_bound r := by rw [resetWith_reg]; positivity
  busy_not_done _ := rfl
  busy_not_err _ := rfl
  no_err_no_code _ := rfl
  err_code h := nomatch h
  flags_exclusive h := nomatch h.1
  pend_word_is_cmd := rfl
  busy_width h := nomatch h

section operations

variable {s : State} (h : s.Inv)
include h

theorem inv_inEnvironment (l : List Input) (r : List Response) : (inEnvironment s l r).Inv :=
  { h with }

theorem inv_refuseAccess : s.refuseAccess.Inv := { h with }

theorem inv_dropCommand : s.dropCommand.Inv := { h with }

theorem inv_storeIe (b : Bool) : State.Inv { s with ie := b } := { h with }

theorem inv_writeRsel (v : Word) : (s.writeRsel v).Inv := { h with }

theorem inv_toReset : s.toReset.Inv := inv_inEnvironment (inv_resetWith h.params_legal) s.inputs s.responses

theorem inv_storeWidth (w : BitVec 16) (idle : s.busy = false) : State.Inv { s with width := w } :=
  { h with busy_width := fun hb => absurd (idle.symm.trans hb) Bool.false_ne_true }

theorem inv_accept (v : Word) (noErr : s.status.err = false) : (s.accept v).Inv :=
  { h with
    busy_not_done := fun _ => rfl
    busy_not_err := fun _ => noErr
    pend_word_is_cmd := rfl
    busy_width := fun _ => rfl }

/-- A 1 in bit 2 clears ERR and ERRCODE together (10_state.md R32). -/
theorem inv_writeStatus (v : Word) : (s.writeStatus v).Inv where
  params_legal := h.params_legal
  regs_bound := h.regs_bound
  busy_not_done hb := by simp [h.busy_not_done hb]
  busy_not_err hb := by simp [h.busy_not_err hb]
  no_err_no_code he := by
    cases hv : v[2] with
    | true => simp [clearOnes_errcode, hv]
    | false => simpa [clearOnes_errcode, hv] using h.no_err_no_code (by simpa [hv] using he)
  err_code he := by
    obtain ⟨he', hv⟩ : s.status.err = true ∧ v[2] = false := by simpa using he
    simpa [clearOnes_errcode, hv] using h.err_code he'
  flags_exclusive := h.flags_exclusive
  pend_word_is_cmd := h.pend_word_is_cmd
  busy_width := h.busy_width

theorem inv_setReg {i : RegIx} {v : Nat} (hv : v < 2 ^ s.params.regBits) : (s.setReg i v).Inv :=
  { h with
    regs_bound := fun r => by
      by_cases hr : r = i
      · rw [hr, setReg_reg_same]; exact hv
      · rw [setReg_reg_ne s i v hr]; exact h.regs_bound r }

/-- A DATA offset names a word inside the register (10_state.md R25). -/
theorem inv_storeData {off : Nat} (v : Word) (low : 0x1000 ≤ off) (high : off < 0x1000 + s.params.regBits / 8) :
    (s.setReg s.rsel (replaceDataWord (s.reg s.rsel) ((off - 0x1000) / 4) v)).Inv := by
  have words : s.params.regBits = 32 * (s.params.regBits / 32) := by
    obtain ⟨hmod, -⟩ := h.params_legal
    unfold Params.regBits
    omega
  refine inv_setReg h ?_
  rw [words]
  exact replaceDataWord_lt _ _ _ v (by omega) (words ▸ h.regs_bound s.rsel)

theorem inv_finish : s.finish.Inv :=
  { h with
    busy_not_done := fun hb => nomatch hb
    busy_not_err := fun hb => nomatch hb
    busy_width := fun hb => nomatch hb }

theorem inv_setFlags {e l : Bool} (hf : ¬(e = true ∧ l = true)) : (s.setFlags e l).Inv :=
  { h with flags_exclusive := hf }

theorem inv_completeFault (c : FaultCode) : (s.completeFault c).Inv :=
  { h with
    busy_not_done := fun hb => nomatch hb
    busy_not_err := fun hb => nomatch hb
    no_err_no_code := fun he => nomatch he
    err_code := fun _ => faultCode_bounds c
    busy_width := fun hb => nomatch hb }

theorem inv_complete {r : Result} (hr : ResultFits s.params.regBits r) : (s.complete r).Inv := by
  cases hr with
  | write rd v bound => exact inv_finish (inv_setReg h bound)
  | flags e l exclusive => exact inv_finish (inv_setFlags h exclusive)
  | nothing => exact inv_finish h
  | fault c => exact inv_completeFault h c

theorem inv_of_effect {s' : State} (e : Effect s s') : s'.Inv := by
  cases e with
  | unchanged => exact h
  | refuse => exact inv_refuseAccess h
  | reset => exact inv_toReset h
  | storeIe b => exact inv_storeIe h b
  | clearStatus v => exact inv_writeStatus h v
  | accept v _ _ _ noErr => exact inv_accept h v noErr
  | drop => exact inv_dropCommand h
  | storeWidth w idle => exact inv_storeWidth h w idle
  | storeRsel v => exact inv_writeRsel h v
  | storeData v _ _ _ low high => exact inv_storeData h v low high
  | command i _ _ decoded => exact inv_complete h (commandResult_fits h (decode_wellFormed decoded))
  | illegal => exact inv_complete h (.fault _)

end operations

/-! ### What every completion keeps (60_exceptions.md R213, R214) -/

theorem complete_completes (s : State) (r : Result) : Completes s (s.complete r) := by
  cases r with
  | write rd v => exact (complete_write s rd v).toCompletes
  | flags e l => exact (complete_flags s e l).toCompletes
  | nothing => exact (complete_nothing s).toCompletes
  | fault c => exact (complete_fault s c).toCompletes

theorem params_of_effect {s s' : State} (e : Effect s s') : s'.params = s.params := by
  cases e with
  | unchanged | refuse | reset | storeIe | clearStatus | accept | drop | storeWidth | storeRsel | storeData => rfl
  | command | illegal => exact (complete_completes s _).params

/-- Settles O52: every effect a step can have keeps the invariant and the parameters, and neither reads the inputs or the
responses. -/
theorem everyStepKeepsInvariant : Obligations.EveryStepKeepsInvariant := by
  constructor
  case left =>
    intro s t hs h
    obtain ⟨s', l, r, e, rfl⟩ := step_follows h
    exact inv_inEnvironment (inv_of_effect hs e) l r
  case right =>
    intro s t h
    obtain ⟨s', l, r, e, rfl⟩ := step_follows h
    exact (params_of_effect e :)

/-- Settles O51: the reset values meet the invariant, and the inputs to come are no part of it. -/
theorem invariantHoldsAtReset : Obligations.InvariantHoldsAtReset :=
  ⟨inv_resetWith (by decide), fun _ l hp => inv_inEnvironment (inv_resetWith hp) l []⟩

end Sys2Proof.Proofs

/-! PROOFS. Each control register, read and written through the port: the whole next state (10_state.md R26 to R33, R39). -/

namespace Sys2Proof.Proofs

open Sys2Proof.Machine Sys2Proof.Claims Sys2Proof.Laws

/-! ### An accepted access to a control register (10_state.md R25; 20_memory.md R53) -/

/-- The register `g`, which is no word of DATA, stands at the aligned offset `off`, whatever MAXW is. -/
structure StandsAt (off : Nat) (g : Target) : Prop where
  inside : off < apertureSize
  aligned : accepted off .word = true
  control : g.isData = false
  named : ∀ p, target p off = g

theorem id_standsAt : StandsAt 0x000 .id := ⟨by decide, by decide, rfl, fun _ => rfl⟩
theorem param_standsAt : StandsAt 0x004 .param := ⟨by decide, by decide, rfl, fun _ => rfl⟩
theorem ctrl_standsAt : StandsAt 0x008 .ctrl := ⟨by decide, by decide, rfl, fun _ => rfl⟩
theorem status_standsAt : StandsAt 0x00C .status := ⟨by decide, by decide, rfl, fun _ => rfl⟩
theorem cmd_standsAt : StandsAt 0x010 .cmd := ⟨by decide, by decide, rfl, fun _ => rfl⟩
theorem width_standsAt : StandsAt 0x014 .width := ⟨by decide, by decide, rfl, fun _ => rfl⟩
theorem rsel_standsAt : StandsAt 0x018 .rsel := ⟨by decide, by decide, rfl, fun _ => rfl⟩

section access

variable {s : State} {rest : List Input} {off : Nat} {g : Target}

theorem registerWord_withInputs (s : State) (l : List Input) (g : Target) :
    registerWord { s with inputs := l } g = registerWord s g := by
  cases g <;> rfl

theorem step_readRegister (hg : StandsAt off g) (h : Presents s (portRead s off .word) rest) :
    step s = .next (answered s rest (.readData (registerWord s g))) := by
  have notRefused : readRefused { s with inputs := rest } off .word = false := by
    simp [readRefused, hg.aligned, hg.named, hg.control]
  rw [step_access h, portRead, hostAccess_read { s with inputs := rest } (portOffset_inside s.params hg.inside),
    busRead_accepted _ notRefused, hg.named, registerWord_withInputs]
  rfl

theorem step_writeRegister {v : Word} (hg : StandsAt off g) (h : Presents s (portWrite s off .word v) rest) :
    step s = .next ((writeTarget { s with inputs := rest } v g).respond .writeDone) := by
  rw [step_access h, portWrite, hostAccess_write { s with inputs := rest } (portOffset_inside s.params hg.inside),
    busWrite_accepted _ hg.aligned, hg.named]

end access

/-! ### Resets (10_state.md R39; 70_reset_and_hazards.md R240, R241) -/

/-- Either reset leaves the reset state with the same parameters. -/
theorem step_isReset {s : State} {rest : List Input} (h : IsReset s rest) :
    ∃ r, step s = .next (inEnvironment (State.resetWith s.params) rest r) := by
  obtain hhard | ⟨v, hv, hsoft⟩ := h
  · exact ⟨s.responses, step_hardwareReset hhard⟩
  · refine ⟨.writeDone :: s.responses, (step_writeRegister ctrl_standsAt hsoft).trans ?_⟩
    rw [writeTarget, writeCtrl_reset _ hv]
    rfl

theorem atReset_resetWith (p : Params) : AtReset (State.resetWith p) where
  regs := resetWith_reg p
  ie := rfl
  busy := rfl
  done := rfl
  err := rfl
  ovr := rfl
  accerr := rfl
  eq := rfl
  lt := rfl
  errcode := rfl
  cmd := rfl
  width := rfl
  rsel := rfl
  pend := ⟨rfl, rfl, rfl⟩
  irq := rfl
  id := rfl

theorem atReset_inEnvironment {t : State} (h : AtReset t) (l : List Input) (r : List Response) :
    AtReset (inEnvironment t l r) := { h with }

/-- Settles O49: a reset step answers the reset state among the inputs left. -/
theorem eitherResetGivesTheResetTable : Obligations.EitherResetGivesTheResetTable := by
  refine ⟨fun s rest h => ?_, atReset_resetWith _, atReset_resetWith⟩
  obtain ⟨r, hstep⟩ := step_isReset h
  exact ⟨_, hstep, atReset_inEnvironment (atReset_resetWith s.params) rest r, rfl, rfl⟩

/-! ### ID and PARAM (10_state.md R26, R27) -/

/-- The three fields of PARAM: MAXW in the lower half, NREG and REV in the upper. -/
theorem paramWord_fields (p : Params) :
    (paramWord p).extractLsb 15 0 = BitVec.ofNat 16 p.maxw ∧ (paramWord p).extractLsb 23 16 = 0x10#8 ∧
      (paramWord p).extractLsb 31 24 = 0x01#8 := by
  have upperHalf : ∀ start, 16 ≤ start →
      (paramWord p).extractLsb' start 8 = (0x01#8 ++ 0x10#8).extractLsb' (start - 16) 8 := fun _ h =>
    BitVec.extractLsb'_append_eq_of_le h
  exact ⟨BitVec.extractLsb'_append_eq_right, upperHalf 16 (by decide), upperHalf 24 (by decide)⟩

/-- Settles O40: the words read are the register map's own, and a write names no register that stores. -/
theorem idAndParamAreHardwired : Obligations.IdAndParamAreHardwired := by
  intro s rest
  refine ⟨step_readRegister id_standsAt, fun hp h => ?_, fun v h => ?_⟩
  · obtain ⟨hmaxw, hnreg, hrev⟩ := paramWord_fields s.params
    have hlt : s.params.maxw < 2 ^ 16 := by obtain ⟨-, -, hmax, -⟩ := hp; omega
    refine ⟨paramWord s.params, ?_, hnreg, hrev, fun h4096 => ?_, step_readRegister param_standsAt h⟩
    · rw [hmaxw, BitVec.toNat_ofNat, Nat.mod_eq_of_lt hlt]
    · rw [paramWord, h4096]; rfl
  · obtain h | h := h
    · exact step_writeRegister id_standsAt h
    · exact step_writeRegister param_standsAt h

/-! ### CTRL (10_state.md R28) -/

theorem ctrlWord_eq (s : State) : ctrlWord s = if s.ie then 1#32 else 0#32 := by
  unfold ctrlWord
  cases s.ie <;> rfl

/-- Settles O41: the two branches of a CTRL write on SRST, and the word CTRL reads as. -/
theorem ctrlStoresInterruptEnable : Obligations.CtrlStoresInterruptEnable := by
  intro s v rest
  refine ⟨fun h hv => ?_, fun h hv => ?_, fun h => ?_⟩
  · rw [step_writeRegister ctrl_standsAt h, writeTarget, writeCtrl_store _ hv]
    rfl
  · obtain ⟨r, hstep⟩ := step_isReset (.inr ⟨v, hv, h⟩)
    exact ⟨_, hstep, rfl, atReset_inEnvironment (atReset_resetWith s.params) rest r⟩
  · rw [← ctrlWord_eq]
    exact step_readRegister ctrl_standsAt h

/-! ### WIDTH (10_state.md R29; 20_memory.md R57) -/

theorem widthWord_eq (s : State) : widthWord s = s.width.zeroExtend 32 :=
  (BitVec.setWidth_eq_append (by decide)).symm

/-- Settles O42: the two branches of a WIDTH write on BUSY, and the word WIDTH reads as. -/
theorem widthStoresSixteenBits : Obligations.WidthStoresSixteenBits := by
  intro s v rest
  refine ⟨fun h idle => ?_, fun h busy => ?_, fun h => ?_⟩
  · rw [step_writeRegister width_standsAt h, writeTarget, writeWidth_idle { s with inputs := rest } idle]
    rfl
  · rw [step_writeRegister width_standsAt h, writeTarget, writeWidth_busy { s with inputs := rest } busy]
    rfl
  · rw [← widthWord_eq]
    exact step_readRegister width_standsAt h

/-! ### RSEL (10_state.md R30) -/

/-- Settles O43: four bits of any word are its value mod 16, and IDX fits in a word. -/
theorem rselStoresFourBits : Obligations.RselStoresFourBits := by
  intro s v rest
  refine ⟨fun h => ⟨(v.extractLsb 3 0).toFin, ?_, step_writeRegister rsel_standsAt h⟩,
    fun h => ⟨rselWord s, ?_, step_readRegister rsel_standsAt h⟩⟩
  · simp
  · rw [rselWord, BitVec.toNat_ofNat, Nat.mod_eq_of_lt (by omega)]

/-! ### STATUS (10_state.md R31, R32) -/

/-- STATUS bit by bit, its width left as the sum of its fields' widths, as `BitVec.getLsbD_append` reads it. -/
theorem statusWord_getLsbD (s : State) (i : Nat) :
    (statusWord s).getLsbD i
      = (0#20 ++ s.status.errcode ++ 0#1 ++ BitVec.ofBool s.status.lt ++ BitVec.ofBool s.status.eq
          ++ BitVec.ofBool s.status.accerr ++ BitVec.ofBool s.status.ovr ++ BitVec.ofBool s.status.err
          ++ BitVec.ofBool s.status.done ++ BitVec.ofBool s.busy).getLsbD i := rfl

theorem statusWord_flags (s : State) :
    (statusWord s)[0] = s.busy ∧ (statusWord s)[1] = s.status.done ∧ (statusWord s)[2] = s.status.err ∧
      (statusWord s)[3] = s.status.ovr ∧ (statusWord s)[4] = s.status.accerr ∧ (statusWord s)[5] = s.status.eq ∧
      (statusWord s)[6] = s.status.lt ∧ (statusWord s)[7] = false := by
  simp only [← BitVec.getLsbD_eq_getElem, statusWord_getLsbD, BitVec.getLsbD_append]
  simp

theorem statusWord_errcode (s : State) : (statusWord s).extractLsb 11 8 = s.status.errcode := by
  ext i hi
  simp only [BitVec.getElem_extract, statusWord_getLsbD, BitVec.getLsbD_append]
  simp [hi]

theorem statusWord_reserved (s : State) : (statusWord s).extractLsb 31 12 = 0#20 := by
  ext i hi
  simp only [BitVec.getElem_extract, statusWord_getLsbD, BitVec.getLsbD_append]
  simp

/-- Settles O44: the read answers the STATUS word, field by field. -/
theorem statusReadShowsEveryField : Obligations.StatusReadShowsEveryField := by
  intro s rest h
  obtain ⟨busy, done, err, ovr, accerr, eq, lt, bit7⟩ := statusWord_flags s
  exact ⟨statusWord s, step_readRegister status_standsAt h, busy, done, err, ovr, accerr, eq, lt, bit7,
    statusWord_errcode s, statusWord_reserved s⟩

theorem clearOnes_eq_ite (t : Status) (v : Word) :
    t.clearOnes v =
      { done := if v[1] then false else t.done
        err := if v[2] then false else t.err
        ovr := if v[3] then false else t.ovr
        accerr := if v[4] then false else t.accerr
        eq := t.eq
        lt := t.lt
        errcode := if v[2] then 0#4 else t.errcode } := by
  have clear : ∀ a b : Bool, (a && !b) = if b then false else a := by decide
  simp only [Status.clearOnes, clear]

/-- Settles O45: the write clears the fields with `Status.clearOnes`, and nothing else. -/
theorem statusWriteClearsOnes : Obligations.StatusWriteClearsOnes := by
  intro s v rest h
  rw [step_writeRegister status_standsAt h, ← clearOnes_eq_ite]
  rfl

/-! ### Outside the aperture (log entry 6) -/

theorem portOffset_outside {p : Params} {addr : Nat} (h : addr < p.base ∨ p.base + apertureSize ≤ addr) :
    portOffset p addr = none :=
  if_neg (by omega)

/-- Settles O47: the port has no offset for the address. -/
theorem accessOutsideApertureLeavesBlock : Obligations.AccessOutsideApertureLeavesBlock := by
  intro s addr size v rest hout h
  have hnone := portOffset_outside hout
  obtain h | h := h
  · rw [step_access h, hostAccess_read_elsewhere { s with inputs := rest } hnone]
  · rw [step_access h, hostAccess_write_elsewhere { s with inputs := rest } hnone]

end Sys2Proof.Proofs

/-! PROOFS. What can change a field of the block: the flags, the registers, the CMD read-back value, DONE with ERR, and the
interrupt line (10_state.md R20, R24, R31, R33, R35). Each is read off the effects a step can have. -/

namespace Sys2Proof.Proofs

open Sys2Proof.Machine Sys2Proof.Claims Sys2Proof.Laws

/-! ### What each kind of result leaves unchanged (30_encoding.md R86) -/

theorem destination_eq_none {i : Instr} (h : destination i = none) : i = .nop ∨ ∃ rs1 rs2, i = .cmp rs1 rs2 := by
  cases i with
  | nop => exact .inl rfl
  | cmp rs1 rs2 => exact .inr ⟨rs1, rs2, rfl⟩
  | mov | ldi | add | mul | mod | mask | shl | shr | xor | topbit | modmul | modsqr | modexp | lcg | lcgd | xsh =>
    cases h

section completion

variable (s : State)

theorem complete_keeps_flags {rd : RegIx} {r : Result} (h : WritesOrFaults rd r) :
    (s.complete r).status.eq = s.status.eq ∧ (s.complete r).status.lt = s.status.lt := by
  obtain ⟨v, rfl⟩ | ⟨c, rfl⟩ := h
  · exact ⟨(complete_write s rd v).eq, (complete_write s rd v).lt⟩
  · exact ⟨(complete_fault s c).eq, (complete_fault s c).lt⟩

/-- A command that is no CMP leaves EQ and LT. -/
theorem command_keeps_flags {i : Instr} (h : ∀ rs1 rs2, i ≠ .cmp rs1 rs2) :
    (s.complete (commandResult s i)).status.eq = s.status.eq ∧
      (s.complete (commandResult s i)).status.lt = s.status.lt := by
  cases hd : destination i with
  | some rd => exact complete_keeps_flags s (commandResult_of_destination hd s)
  | none =>
    obtain rfl | ⟨rs1, rs2, rfl⟩ := destination_eq_none hd
    · exact ⟨(complete_nothing s).eq, (complete_nothing s).lt⟩
    · exact absurd rfl (h rs1 rs2)

/-- A command leaves every register but its destination. -/
theorem command_keeps_regs {i : Instr} {r : RegIx} (h : destination i ≠ some r) :
    (s.complete (commandResult s i)).reg r = s.reg r := by
  cases hd : destination i with
  | some rd =>
    have hne : r ≠ rd := fun he => h (he ▸ hd)
    obtain ⟨v, hr⟩ | ⟨c, hr⟩ := commandResult_of_destination hd s
    · rw [hr]; exact (complete_write s rd v).others r hne
    · rw [hr]; exact (complete_fault s c).regs r
  | none =>
    obtain rfl | ⟨rs1, rs2, rfl⟩ := destination_eq_none hd
    · exact (complete_nothing s).regs r
    · exact (complete_flags s _ _).regs r

end completion

/-! ### EQ and LT (10_state.md R24) -/

/-- Settles O28: of all effects only a reset and the completion of a command reach the flags, and of the commands only
CMP. -/
theorem onlyCmpOrResetChangesFlags : Obligations.OnlyCmpOrResetChangesFlags := by
  intro s t h changed
  obtain ⟨s', l, r, e, rfl⟩ := step_follows h
  have kept : ∀ {P : Prop}, s'.status.eq = s.status.eq ∧ s'.status.lt = s.status.lt → P := fun ⟨heq, hlt⟩ =>
    absurd changed (not_or.mpr ⟨not_not.mpr heq, not_not.mpr hlt⟩)
  cases e with
  | unchanged | refuse | storeIe | clearStatus | accept | drop | storeWidth | storeRsel | storeData =>
    exact kept ⟨rfl, rfl⟩
  | reset rest event => exact .inr ⟨rest, event⟩
  | illegal => exact kept ⟨(complete_fault s _).eq, (complete_fault s _).lt⟩
  | command i turn busy decoded =>
    by_cases hcmp : ∃ rs1 rs2, i = .cmp rs1 rs2
    · obtain ⟨rs1, rs2, rfl⟩ := hcmp
      exact .inl ⟨turn, busy, rs1, rs2, decoded⟩
    · exact kept (command_keeps_flags s fun rs1 rs2 hi => hcmp ⟨rs1, rs2, hi⟩)

/-! ### The registers (10_state.md R20; 20_memory.md R60) -/

/-- Settles O29: of all effects only a reset, an idle DATA write and the completion of a command reach a register. -/
theorem registersChangeOnlyThreeWays : Obligations.RegistersChangeOnlyThreeWays := by
  intro s t r h changed
  obtain ⟨s', l, q, e, rfl⟩ := step_follows h
  have kept : ∀ {P : Prop}, s'.reg r = s.reg r → P := fun hr => absurd hr changed
  cases e with
  | unchanged | refuse | storeIe | clearStatus | accept | drop | storeWidth | storeRsel => exact kept rfl
  | reset rest event => exact .inr (.inr ⟨rest, event⟩)
  | illegal => exact kept ((complete_fault s _).regs r)
  | storeData v off rest event low high idle =>
    by_cases hr : r = s.rsel
    · exact .inr (.inl ⟨idle, hr, rest, off, v, event, low, high⟩)
    · exact kept (setReg_reg_ne s _ _ hr)
  | command i turn busy decoded =>
    by_cases hi : destination i = some r
    · exact .inl ⟨turn, busy, i, decoded, hi⟩
    · exact kept (command_keeps_regs s hi)

/-! ### CMD (10_state.md R33; 20_memory.md R54) -/

section cmdWrite

variable {s : State} {v : Word} {rest : List Input}

theorem step_cmdWrite_accepted (h : Presents s (portWrite s 0x010 .word v) rest)
    (ready : s.busy = false ∧ s.status.err = false) :
    step s = .next (inEnvironment (s.accept v) rest (.writeDone :: s.responses)) := by
  rw [step_writeRegister cmd_standsAt h, writeTarget, issue_accepted { s with inputs := rest } v ready]
  rfl

theorem step_cmdWrite_dropped (h : Presents s (portWrite s 0x010 .word v) rest)
    (unready : s.busy = true ∨ s.status.err = true) :
    step s = .next (inEnvironment s.dropCommand rest (.writeDone :: s.responses)) := by
  rw [step_writeRegister cmd_standsAt h, writeTarget, issue_dropped { s with inputs := rest } v unready]
  rfl

end cmdWrite

theorem cmd_of_effect {s s' : State} (e : Effect s s') (changed : s'.cmd ≠ s.cmd) :
    (∃ v r, Presents s (portWrite s 0x010 .word v) r ∧ s.busy = false ∧ s.status.err = false ∧ s'.cmd = v) ∨
      ∃ r, IsReset s r := by
  cases e with
  | unchanged | refuse | storeIe | clearStatus | drop | storeWidth | storeRsel | storeData => exact absurd rfl changed
  | command | illegal => exact absurd (complete_completes s _).cmd changed
  | accept v rest event idle noErr => exact .inl ⟨v, rest, event, idle, noErr, rfl⟩
  | reset rest event => exact .inr ⟨rest, event⟩

/-- Settles O46: the two outcomes of a CMD write, and of all effects only acceptance and a reset reach the value. -/
theorem cmdReadsLastAcceptedWord : Obligations.CmdReadsLastAcceptedWord := by
  refine fun s rest => ⟨step_readRegister cmd_standsAt, fun v h => ⟨fun ready => ?_, fun unready => ?_⟩, fun t h => ?_⟩
  · exact ⟨_, step_cmdWrite_accepted h ready, rfl⟩
  · exact ⟨_, step_cmdWrite_dropped h unready, rfl⟩
  · obtain ⟨s', l, r, e, rfl⟩ := step_follows h
    exact (cmd_of_effect e :)

/-! ### DONE and ERR (10_state.md R31) -/

/-- Settles O53: a completion sets DONE, acceptance needs ERR = 0, and of the other effects only a reset and a STATUS write
reach either bit. -/
theorem errKeepsDoneUntilHostClearsIt : Obligations.ErrKeepsDoneUntilHostClearsIt := by
  intro s t h hs
  obtain ⟨s', l, r, e, rfl⟩ := step_follows h
  cases e with
  | unchanged | refuse | storeIe | drop | storeWidth | storeRsel | storeData => exact .inl hs
  | reset => exact .inl fun herr => nomatch herr
  | accept v rest event idle noErr => exact .inl fun herr => absurd (noErr.symm.trans herr) Bool.false_ne_true
  | command | illegal => exact .inl fun _ => (complete_completes s _).done
  | clearStatus v rest event =>
    cases hv : v[1] with
    | true => exact .inr ⟨v, rest, hv, event⟩
    | false =>
      refine .inl fun herr => ?_
      have hold : s.status.err = true := (Bool.and_eq_true_iff.mp herr).1
      exact Bool.and_eq_true_iff.mpr ⟨hs hold, by rw [hv]; rfl⟩

/-! ### The interrupt line (10_state.md R35; 60_exceptions.md R217) -/

theorem irq_of_notDone {t : State} (h : t.status.done = false) : t.irq = false := by
  simp [State.irq, h]

/-- Settles O48: a completion sets DONE and leaves IE; each of the three lowering events clears DONE. -/
theorem interruptFollowsDoneAndEnable : Obligations.InterruptFollowsDoneAndEnable := by
  refine ⟨fun s => Bool.and_eq_true_iff, fun s t h => ?completion, fun s t rest h event => irq_of_notDone ?_⟩
  case completion =>
    obtain ⟨r, hr⟩ := engineStep_completes s
    obtain rfl := Host.Outcome.next.inj (hr.symm.trans h)
    have completed := complete_completes s r
    simp [State.irq, completed.done, completed.ie]
  obtain ⟨v, hv, hstatus⟩ | ⟨v, idle, noErr, hcmd⟩ | hreset := event
  · obtain rfl := Host.Outcome.next.inj ((step_writeRegister status_standsAt hstatus).symm.trans h)
    simp [writeTarget, hv]
  · obtain rfl := Host.Outcome.next.inj ((step_cmdWrite_accepted hcmd ⟨idle, noErr⟩).symm.trans h)
    rfl
  · obtain ⟨r, hr⟩ := step_isReset hreset
    obtain rfl := Host.Outcome.next.inj (hr.symm.trans h)
    rfl

end Sys2Proof.Proofs

/-! PROOFS. 20_memory.md: which accesses the port refuses (R53, R57), the reserved offsets (R58), the DATA window read and
written word by word (R52, R55, R56), and what a command leaves of the aperture (R50). -/

namespace Sys2Proof.Proofs

open Sys2Proof.Machine Sys2Proof.Claims Sys2Proof.Laws

/-! ### What stands above RSEL (10_state.md R25) -/

theorem target_above_rsel {p : Params} {off : Nat} (h : 0x01C ≤ off) :
    target p off
      = if 0x1000 ≤ off ∧ off < 0x1000 + p.regBits / 8 then .data ((off - 0x1000) / 4) else .reserved := by
  unfold target
  rw [if_neg (by omega), if_neg (by omega), if_neg (by omega), if_neg (by omega), if_neg (by omega), if_neg (by omega),
    if_neg (by omega)]

theorem target_isData_iff {p : Params} {off : Nat} :
    (target p off).isData = true ↔ 0x1000 ≤ off ∧ off < 0x1000 + p.regBits / 8 := by
  constructor
  case mp =>
    intro h
    cases ht : target p off with
    | data i =>
      obtain ⟨low, high, -⟩ := target_data ht
      exact ⟨low, high⟩
    | id | param | ctrl | status | cmd | width | rsel | reserved => rw [ht] at h; cases h
  case mpr =>
    intro h
    rw [target_above_rsel (by omega), if_pos h]
    rfl

theorem target_reserved {p : Params} {off : Nat}
    (h : (0x01C ≤ off ∧ off < 0x1000) ∨ (0x1000 ≤ off ∧ 0x1000 + p.regBits / 8 ≤ off)) : target p off = .reserved := by
  rw [target_above_rsel (by omega), if_neg (by omega)]

/-! ### Which accesses are refused (20_memory.md R53, R57) -/

theorem accepted_iff {off : Nat} {size : Size} : accepted off size = true ↔ size = .word ∧ off % 4 = 0 := by
  simp [accepted]

theorem accepted_eq_false {off : Nat} {size : Size} (h : size ≠ .word ∨ off % 4 ≠ 0) : accepted off size = false :=
  Bool.eq_false_iff.mpr fun ha => not_and_or.mpr h (accepted_iff.mp ha)

theorem readRefused_iff {s : State} {off : Nat} {size : Size} :
    readRefused s off size = true ↔
      size ≠ .word ∨ off % 4 ≠ 0 ∨ (s.busy = true ∧ 0x1000 ≤ off ∧ off < 0x1000 + s.params.regBits / 8) := by
  rw [readRefused, Bool.or_eq_true, Bool.and_eq_true, target_isData_iff, Bool.not_eq_true', Bool.eq_false_iff, ne_eq,
    accepted_iff, not_and_or, or_assoc, and_comm (a := _ ∧ _)]

/-- An aligned read of 4 bytes is accepted in any state unless it is of DATA. -/
theorem readRefused_outsideData {s : State} {off : Nat} (aligned : off % 4 = 0)
    (outside : off < 0x1000 ∨ 0x1000 + s.params.regBits / 8 ≤ off) : readRefused s off .word = false := by
  rw [Bool.eq_false_iff, ne_eq, readRefused_iff]
  simp only [ne_eq, not_true_eq_false, false_or]
  omega

/-! ### The step of an access (20_memory.md R53, R60)

The whole next state, for every offset of the aperture. -/

section access

variable {s : State} {off : Nat} {size : Size} {rest : List Input}

theorem step_read_refused (inside : off < apertureSize) (hr : readRefused s off size = true)
    (h : Presents s (portRead s off size) rest) :
    step s = .next (refused s rest (.readData 0x00000000#32)) := by
  rw [step_access h, portRead, hostAccess_read { s with inputs := rest } (portOffset_inside s.params inside),
    busRead_refused { s with inputs := rest } hr]
  rfl

theorem step_read_accepted (inside : off < apertureSize) (hr : readRefused s off size = false)
    (h : Presents s (portRead s off size) rest) :
    step s = .next (answered s rest (.readData (registerWord s (target s.params off)))) := by
  rw [step_access h, portRead, hostAccess_read { s with inputs := rest } (portOffset_inside s.params inside),
    busRead_accepted { s with inputs := rest } hr, registerWord_withInputs]
  rfl

theorem step_write_refused {v : Word} (inside : off < apertureSize) (ha : accepted off size = false)
    (h : Presents s (portWrite s off size v) rest) : step s = .next (refused s rest .writeDone) := by
  rw [step_access h, portWrite, hostAccess_write { s with inputs := rest } (portOffset_inside s.params inside),
    busWrite_refused { s with inputs := rest } ha]
  rfl

theorem step_write_accepted {v : Word} (inside : off < apertureSize) (aligned : off % 4 = 0)
    (h : Presents s (portWrite s off .word v) rest) :
    step s = .next ((writeTarget { s with inputs := rest } v (target s.params off)).respond .writeDone) := by
  rw [step_access h, portWrite, hostAccess_write { s with inputs := rest } (portOffset_inside s.params inside),
    busWrite_accepted { s with inputs := rest } (accepted_iff.mpr ⟨rfl, aligned⟩)]

end access

/-- Settles O33: an access of another size or alignment is refused before the offset is looked up. -/
theorem wrongSizeOrAlignmentRefused : Obligations.WrongSizeOrAlignmentRefused := by
  intro s off size v rest inside wrong
  constructor
  · exact step_read_refused inside (readRefused_iff.mpr (wrong.imp_right .inl))
  · exact step_write_refused inside (accepted_eq_false wrong)

/-- Settles O34: the two branches of R54 are the two outcomes of a CMD write, acceptance and the drop. -/
theorem cmdWriteAcceptedOrDropped : Obligations.CmdWriteAcceptedOrDropped :=
  fun _ _ _ h => ⟨step_cmdWrite_accepted h, step_cmdWrite_dropped h⟩

/-- Settles O39: the condition is `readRefused`, and an accepted read answers the register map's word. -/
theorem readsHaveNoOtherSideEffect : Obligations.ReadsHaveNoOtherSideEffect := by
  intro s off size rest inside h
  split
  · next hr => exact step_read_refused inside (readRefused_iff.mpr hr) h
  · next hr => exact ⟨_, step_read_accepted inside (Bool.eq_false_iff.mpr (mt readRefused_iff.mp hr)) h⟩

/-- Settles O38: a reserved offset reads as 0 and stores nothing, and neither do ID and PARAM store. -/
theorem reservedOffsetsReadZeroIgnoreWrites : Obligations.ReservedOffsetsReadZeroIgnoreWrites := by
  intro s off v rest aligned inside
  refine ⟨fun unnamed => ⟨fun h => ?read, fun h => ?write⟩, fun hardwired h => ?idOrParam⟩
  case read =>
    rw [step_read_accepted inside (readRefused_outsideData aligned (by omega)) h, target_reserved unnamed]
    rfl
  case write =>
    rw [step_write_accepted inside aligned h, target_reserved unnamed]
    rfl
  case idOrParam =>
    obtain rfl | rfl := hardwired
    · exact step_writeRegister id_standsAt h
    · exact step_writeRegister param_standsAt h

/-! ### The DATA window (20_memory.md R52, R55, R56) -/

/-- The words of a register after one is replaced. -/
theorem dataWord_replaceDataWord (x i j : Nat) (v : Word) :
    dataWord (replaceDataWord x i v) j = if j = i then v else dataWord x j := by
  apply BitVec.eq_of_getLsbD_eq
  intro k hk
  rw [dataWord_getLsbD _ _ _ hk, replaceDataWord_testBit]
  by_cases hji : j = i
  · rw [if_pos hji, if_pos (by omega)]
    congr 1
    omega
  · rw [if_neg hji, if_neg (by omega), dataWord_getLsbD _ _ _ hk]

section dataWindow

variable {s : State} {i : Nat} {rest : List Input}

/-- Word `i` of the register is a word of the window, at offset 0x1000 + 4i. -/
theorem target_dataWord {p : Params} (hi : i < p.regBits / 32) : target p (0x1000 + 4 * i) = .data i := by
  rw [target_above_rsel (by omega), if_pos (by omega)]
  congr 1
  omega

/-- The window of the largest legal register lies in the aperture. -/
theorem dataOffset_inside {p : Params} (hp : p.Legal) (hi : i < p.regBits / 32) : 0x1000 + 4 * i < apertureSize := by
  obtain ⟨-, -, hmax, -⟩ := hp
  unfold Params.regBits at hi
  unfold apertureSize
  omega

theorem readRefused_dataWord (hi : i < s.params.regBits / 32) : readRefused s (0x1000 + 4 * i) .word = s.busy := by
  rw [readRefused, target_dataWord hi, accepted_iff.mpr ⟨rfl, by omega⟩]
  rfl

theorem busRead_dataWord_idle (hi : i < s.params.regBits / 32) (idle : s.busy = false) :
    busRead s (0x1000 + 4 * i) .word = (s, dataWord (s.reg s.rsel) i) := by
  rw [busRead_accepted s ((readRefused_dataWord hi).trans idle), target_dataWord hi]
  rfl

theorem step_dataRead_idle (hp : s.params.Legal) (hi : i < s.params.regBits / 32) (idle : s.busy = false)
    (h : Presents s (portRead s (0x1000 + 4 * i) .word) rest) :
    step s = .next (answered s rest (.readData (dataWord (s.reg s.rsel) i))) := by
  rw [step_read_accepted (dataOffset_inside hp hi) ((readRefused_dataWord hi).trans idle) h, target_dataWord hi]
  rfl

theorem step_dataWrite {v : Word} (hp : s.params.Legal) (hi : i < s.params.regBits / 32)
    (h : Presents s (portWrite s (0x1000 + 4 * i) .word v) rest) :
    step s = .next ((State.writeData { s with inputs := rest } i v).respond .writeDone) := by
  rw [step_write_accepted (dataOffset_inside hp hi) (by omega) h, target_dataWord hi]
  rfl

theorem step_dataWrite_idle {v : Word} (hp : s.params.Legal) (hi : i < s.params.regBits / 32) (idle : s.busy = false)
    (h : Presents s (portWrite s (0x1000 + 4 * i) .word v) rest) :
    step s = .next (inEnvironment (s.setReg s.rsel (replaceDataWord (s.reg s.rsel) i v)) rest
      (.writeDone :: s.responses)) := by
  rw [step_dataWrite hp hi h, writeData_idle { s with inputs := rest } idle]
  rfl

end dataWindow

/-- Settles O35: the value of the word read is the register's, by `dataWord_toNat`. -/
theorem dataReadReturnsWordOfSelectedRegister : Obligations.DataReadReturnsWordOfSelectedRegister := by
  intro s i rest hp hi h
  constructor
  · intro busy
    exact step_read_refused (dataOffset_inside hp hi) ((readRefused_dataWord hi).trans busy) h
  · intro idle
    exact ⟨_, dataWord_toNat _ i, step_dataRead_idle hp hi idle h⟩

/-- Settles O36: the bits of the value stored are `replaceDataWord_testBit`'s. -/
theorem dataWriteReplacesExactlyOneWord : Obligations.DataWriteReplacesExactlyOneWord := by
  intro s i v rest hp hi h
  constructor
  · intro busy
    rw [step_dataWrite hp hi h, writeData_busy { s with inputs := rest } busy]
    rfl
  · intro idle
    exact ⟨_, fun k => replaceDataWord_testBit (s.reg s.rsel) i k v, step_dataWrite_idle hp hi idle h⟩

/-- Settles O37: the block stays idle, so both reads answer a word of the selected register, and
`dataWord_replaceDataWord` compares the two. -/
theorem dataReadAfterDataWrite : Obligations.DataReadAfterDataWrite := by
  intro s t i j v rest hp hi hj idle h ht
  have next := Host.Outcome.next.inj (ht.symm.trans (step_dataWrite_idle hp hi idle h))
  have params : t.params = s.params := next ▸ rfl
  have idleAfter : t.busy = false := next ▸ idle
  have written : t.reg t.rsel = replaceDataWord (s.reg s.rsel) i v := next ▸ setReg_reg_same s s.rsel _
  rw [busRead_dataWord_idle (params ▸ hj) idleAfter, busRead_dataWord_idle hj idle, written]
  exact dataWord_replaceDataWord _ i j v

/-! ### A running command and the host (20_memory.md R57) -/

/-- A reset event is the head of the inputs. -/
theorem isReset_tail {s : State} {x : Input} {rest rest' : List Input} (h : IsReset s rest')
    (hs : s.inputs = x :: rest) : rest' = rest := by
  obtain hhard | ⟨v, -, hsoft⟩ := h
  · exact (List.cons.inj (hhard.symm.trans hs)).2
  · exact (List.cons.inj (hsoft.symm.trans hs)).2

theorem not_enginesTurn_of_presents {s : State} {a : Access} {rest : List Input} (h : Presents s a rest) :
    ¬EnginesTurn s := by
  rintro (hnil | ⟨rest', hturn⟩)
  · cases h.symm.trans hnil
  · cases h.symm.trans hturn

/-- Settles O30: of the effects of a host access, those on a register, PEND, WIDTH and CMD need BUSY = 0, but for a
reset. -/
theorem operandsFixedWhileBusy : Obligations.OperandsFixedWhileBusy := by
  intro s t a rest h busy ht
  have notIdle : s.busy ≠ false := ne_false_of_eq_true busy
  obtain ⟨s', l, r, e, rfl⟩ := step_follows ht
  cases e with
  | unchanged | refuse | storeIe | clearStatus | drop | storeRsel => exact .inl ⟨rfl, rfl, rfl, rfl⟩
  | reset rest' event => exact .inr (isReset_tail event h ▸ event)
  | accept _ _ _ idle | storeWidth _ idle | storeData _ _ _ _ _ _ idle => exact absurd idle notIdle
  | command _ turn | illegal turn => exact absurd turn (not_enginesTurn_of_presents h)

/-! ### A command and the aperture (20_memory.md R50, R52) -/

/-- A completion leaves the word of every register but STATUS and DATA. -/
theorem registerWord_of_completes {s t : State} (h : Completes s t) {g : Target} (notStatus : g ≠ .status)
    (notData : g.isData = false) : registerWord t g = registerWord s g := by
  cases g with
  | id | reserved => rfl
  | param => exact congrArg paramWord h.params
  | ctrl => simp only [registerWord, ctrlWord, h.ie]
  | status => exact absurd rfl notStatus
  | cmd => exact h.cmd
  | width => simp only [registerWord, widthWord, h.width]
  | rsel => simp only [registerWord, rselWord, h.rsel]
  | data i => cases notData

theorem busRead_of_completes {s t : State} (h : Completes s t) {off : Nat} (aligned : off % 4 = 0)
    (notStatus : off ≠ 0x00C) (outside : off < 0x1000 ∨ 0x1000 + s.params.regBits / 8 ≤ off) :
    (busRead t off .word).2 = (busRead s off .word).2 := by
  have notData : (target s.params off).isData = false :=
    Bool.eq_false_iff.mpr fun hd => by have := target_isData_iff.mp hd; omega
  rw [busRead_accepted t (readRefused_outsideData aligned (by rw [h.params]; exact outside)),
    busRead_accepted s (readRefused_outsideData aligned outside), h.params]
  exact registerWord_of_completes h (mt offset_of_target.2.1 notStatus) notData

/-- Settles O32: the byte is one of a word that lies outside STATUS and, the window being whole words, outside DATA. -/
theorem commandsLeaveOtherApertureBytes : Obligations.CommandsLeaveOtherApertureBytes := by
  intro i s t off ht _ outsideStatus outsideData wholeWords
  obtain rfl := eq_complete_of_exec ht
  have word : (busRead (s.complete (commandResult s i)) (off - off % 4) .word).2
      = (busRead s (off - off % 4) .word).2 :=
    busRead_of_completes (complete_completes s _) (by omega) (by omega) (by omega)
  exact congrArg (wordByte · (off % 4)) word

end Sys2Proof.Proofs

/-! PROOFS. 30_encoding.md R80 to R85: what a field reads in an encoded word, and a word as the sum
of its parts. -/

namespace Sys2Proof.Proofs

open Sys2Proof.Machine Sys2Proof.Laws

/-! ### A placed register (30_encoding.md R80, R82) -/

theorem regIx_testBit_high (r : RegIx) {i : Nat} (h : 4 ≤ i) : r.val.testBit i = false :=
  Nat.testBit_lt_two_pow (lt_of_lt_of_le r.isLt (Nat.pow_le_pow_right (n := 2) (by decide) h))

theorem placeReg_getLsbD (r : RegIx) (pos i : Nat) :
    (placeReg r pos).getLsbD i = (decide (i < 32 ∧ pos ≤ i) && r.val.testBit (i - pos)) := by
  simp only [placeReg, BitVec.getLsbD_shiftLeft, BitVec.getLsbD_ofNat]
  by_cases hi : i < 32
  · by_cases hp : pos ≤ i
    · simp [hi, hp, Nat.not_lt.mpr hp, show i - pos < 32 by omega]
    · simp [hp, Nat.lt_of_not_le hp]
  · simp [hi]

@[simp] theorem extract_placeReg_same (r : RegIx) {pos : Nat} (h : pos ≤ 28) :
    (placeReg r pos).extractLsb' pos 4 = .ofFin r := by
  ext i hi
  simp only [BitVec.getElem_extractLsb', placeReg_getLsbD, BitVec.getElem_ofFin]
  simp [show pos + i < 32 by omega]

@[simp] theorem extract_placeReg_other (r : RegIx) {pos start len : Nat}
    (h : pos + 4 ≤ start ∨ start + len ≤ pos) : (placeReg r pos).extractLsb' start len = 0#len := by
  ext i hi
  simp only [BitVec.getElem_extractLsb', placeReg_getLsbD, BitVec.getElem_zero]
  obtain above | below := h
  · simp [regIx_testBit_high r (show 4 ≤ start + i - pos by omega)]
  · simp [show ¬pos ≤ start + i by omega]

/-- An unused field is no part of the word. -/
theorem placeReg_unused (w : Word) (pos : Nat) : placeReg 0 pos = w &&& 0#32 := by simp [placeReg]

theorem fieldMask_getLsbD (pos i : Nat) : (0xF#32 <<< pos).getLsbD i = decide (i < 32 ∧ pos ≤ i ∧ i < pos + 4) := by
  have nibble : (0xF#32).getLsbD (i - pos) = decide (i - pos < 4) := Nat.testBit_two_pow_sub_one 4 (i - pos)
  rw [BitVec.getLsbD_shiftLeft, nibble, Bool.eq_iff_iff]
  simp only [Bool.and_eq_true, Bool.not_eq_true', decide_eq_true_iff, decide_eq_false_iff_not]
  omega

/-- A register field read from a word and placed again is that part of the word. -/
theorem placeReg_extract (w : Word) (pos : Nat) :
    placeReg (w.extractLsb' pos 4).toFin pos = w &&& 0xF#32 <<< pos := by
  apply BitVec.eq_of_getLsbD_eq
  intro i hi
  have field : (w.extractLsb' pos 4).toNat.testBit (i - pos) = (decide (i - pos < 4) && w.getLsbD (pos + (i - pos))) :=
    BitVec.getLsbD_extractLsb' ..
  rw [BitVec.getLsbD_and, fieldMask_getLsbD, placeReg_getLsbD, BitVec.val_toFin, field]
  by_cases hp : pos ≤ i
  · simp [hi, hp, Nat.sub_lt_iff_lt_add' hp, Bool.and_comm]
  · simp [hp]

/-! ### A placed immediate (30_encoding.md R81, R82) -/

@[simp] theorem extract_imm_low (imm : Nat) :
    ((BitVec.ofNat 16 imm).setWidth 32).extractLsb' 0 16 = .ofNat 16 imm :=
  (BitVec.extractLsb'_setWidth_of_le (by decide)).trans BitVec.extractLsb'_eq_self

@[simp] theorem extract_imm_high (imm : Nat) {start len : Nat} (h : 16 ≤ start) :
    ((BitVec.ofNat 16 imm).setWidth 32).extractLsb' start len = 0#len := by
  ext i hi
  rw [BitVec.getElem_extractLsb', BitVec.getLsbD_setWidth, BitVec.getLsbD_of_ge _ _ (by omega)]
  simp

/-- The immediate read from a word and placed again is that part of the word. -/
theorem placeImm_immField (w : Word) : (BitVec.ofNat 16 (immField w)).setWidth 32 = w &&& 0x0000FFFF#32 := by
  apply BitVec.eq_of_getLsbD_eq
  intro i hi
  have low : (0x0000FFFF#32).getLsbD i = decide (i < 16) := Nat.testBit_two_pow_sub_one 16 i
  rw [BitVec.getLsbD_and, low, immField, BitVec.ofNat_toNat]
  simp [hi, Nat.lt_succ_iff, Bool.and_comm]

/-! ### The fields of an encoded word (30_encoding.md R80, R81)

`pattern` holds an opcode and nothing below it. -/

theorem extract_opcode {pattern : Word} (hp : pattern.extractLsb' 0 26 = 0#26) {start len : Nat}
    (h : start + len ≤ 26) : pattern.extractLsb' start len = 0#len := by
  ext i hi
  have bit := congrArg (BitVec.getLsbD · (start + i)) hp
  simpa [show start + i < 26 by omega] using bit

section formats

variable {pattern : Word} (hp : pattern.extractLsb' 0 26 = 0#26) (rd rs1 rs2 rs3 : RegIx)
include hp

theorem formatR_fields :
    let w := formatR pattern rd rs1 rs2 rs3
    rdField w = rd ∧ rs1Field w = rs1 ∧ rs2Field w = rs2 ∧ rs3Field w = rs3 := by
  intro w
  have rdRead : w.extractLsb' 22 4 = .ofFin rd := by
    simp [w, formatR, BitVec.extractLsb'_or, extract_opcode hp]
  have rs1Read : w.extractLsb' 18 4 = .ofFin rs1 := by
    simp [w, formatR, BitVec.extractLsb'_or, extract_opcode hp]
  have rs2Read : w.extractLsb' 14 4 = .ofFin rs2 := by
    simp [w, formatR, BitVec.extractLsb'_or, extract_opcode hp]
  have rs3Read : w.extractLsb' 10 4 = .ofFin rs3 := by
    simp [w, formatR, BitVec.extractLsb'_or, extract_opcode hp]
  exact ⟨congrArg BitVec.toFin rdRead, congrArg BitVec.toFin rs1Read, congrArg BitVec.toFin rs2Read,
    congrArg BitVec.toFin rs3Read⟩

theorem formatI_fields {imm : Nat} (fits : immFits imm = true) :
    let w := formatI pattern rd rs1 imm
    rdField w = rd ∧ rs1Field w = rs1 ∧ immField w = imm := by
  intro w
  have rdRead : w.extractLsb' 22 4 = .ofFin rd := by
    simp [w, formatI, BitVec.extractLsb'_or, extract_opcode hp]
  have rs1Read : w.extractLsb' 18 4 = .ofFin rs1 := by
    simp [w, formatI, BitVec.extractLsb'_or, extract_opcode hp]
  have immRead : w.extractLsb' 0 16 = .ofNat 16 imm := by
    simp [w, formatI, BitVec.extractLsb'_or, extract_opcode hp]
  exact ⟨congrArg BitVec.toFin rdRead, congrArg BitVec.toFin rs1Read,
    (congrArg BitVec.toNat immRead).trans (Nat.mod_eq_of_lt (of_decide_eq_true fits))⟩

end formats

/-! ### A word put together again from its parts (30_encoding.md R85)

`mask` is the row's fixed bits, and `m0` to `m3` are the bits of the fields that the row uses; an unused field has 0. -/

theorem formatR_of_cover (mask : Word) {w pattern m0 m1 m2 m3 : Word} {rd rs1 rs2 rs3 : RegIx}
    (matched : w &&& mask = pattern) (h0 : placeReg rd 22 = w &&& m0) (h1 : placeReg rs1 18 = w &&& m1)
    (h2 : placeReg rs2 14 = w &&& m2) (h3 : placeReg rs3 10 = w &&& m3)
    (cover : mask ||| m0 ||| m1 ||| m2 ||| m3 = BitVec.allOnes 32) : formatR pattern rd rs1 rs2 rs3 = w := by
  simp only [formatR, ← matched, h0, h1, h2, h3, ← BitVec.and_or_distrib_left, cover, BitVec.and_allOnes]

theorem formatI_of_cover (mask : Word) {w pattern m0 m1 : Word} {rd rs1 : RegIx} (matched : w &&& mask = pattern)
    (h0 : placeReg rd 22 = w &&& m0) (h1 : placeReg rs1 18 = w &&& m1)
    (cover : mask ||| m0 ||| m1 ||| 0x0000FFFF#32 = BitVec.allOnes 32) : formatI pattern rd rs1 (immField w) = w := by
  simp only [formatI, BitVec.zeroExtend_eq_setWidth, ← matched, h0, h1, placeImm_immField,
    ← BitVec.and_or_distrib_left, cover, BitVec.and_allOnes]

end Sys2Proof.Proofs

/-! PROOFS. 30_encoding.md R83 to R89: the opcode map has one row per opcode, and decoding and encoding are inverse. -/

namespace Sys2Proof.Proofs

open Sys2Proof.Machine Sys2Proof.Claims Sys2Proof.Laws

/-! ### One row per opcode (30_encoding.md R83, R86) -/

theorem accepts_iff {r : Row} {w : Word} : r.accepts w = true ↔ w &&& r.mask = r.pattern := beq_iff_eq

/-- Every row fixes all six opcode bits. -/
theorem opField_mask : ∀ r ∈ opcodeRows, opField r.mask = BitVec.allOnes 6 := by decide

theorem opcodes_nodup : (opcodeRows.map fun r => opField r.pattern).Nodup := by decide

theorem opField_of_matches {r : Row} (hr : r ∈ opcodeRows) {w : Word} (h : w &&& r.mask = r.pattern) :
    opField w = opField r.pattern :=
  calc opField w = opField w &&& opField r.mask := by rw [opField_mask r hr, BitVec.and_allOnes]
    _ = opField (w &&& r.mask) := BitVec.extractLsb'_and.symm
    _ = opField r.pattern := by rw [h]

theorem row_eq_of_opField {r r' : Row} (hr : r ∈ opcodeRows) (hr' : r' ∈ opcodeRows)
    (h : opField r.pattern = opField r'.pattern) : r = r' :=
  List.inj_on_of_nodup_map opcodes_nodup hr hr' h

theorem row_eq_of_matches {r r' : Row} (hr : r ∈ opcodeRows) (hr' : r' ∈ opcodeRows) {w : Word}
    (h : w &&& r.mask = r.pattern) (h' : w &&& r'.mask = r'.pattern) : r = r' :=
  row_eq_of_opField hr hr' ((opField_of_matches hr h).symm.trans (opField_of_matches hr' h'))

/-- Settles O22: a row fixes the whole opcode, and no two rows have the same one. -/
theorem opcodeRowsNeverOverlap : Obligations.OpcodeRowsNeverOverlap := by
  intro r hr r' hr' w h h'
  exact congrArg Row.mnemonic (row_eq_of_matches hr hr' h h')

/-! ### What the decoder answers (30_encoding.md R86) -/

theorem decode_of_matches {r : Row} (hr : r ∈ opcodeRows) {w : Word} (h : w &&& r.mask = r.pattern) :
    decode w = .ok (r.build w) := by
  cases hd : decode w with
  | ok i =>
    obtain ⟨r', hr', accepts, rfl⟩ := decode_ok hd
    rw [row_eq_of_matches hr hr' h (accepts_iff.mp accepts)]
  | error e => exact absurd (accepts_iff.mpr h) (Bool.eq_false_iff.mp ((decode_error hd).1 r hr))

section rows

open MatchesRow

theorem row_mem (i : Instr) : row i ∈ opcodeRows := List.getElem_mem _

theorem rowIndex_build (k : Fin 18) (w : Word) : rowIndex (opcodeRows[k].build w) = k := by
  fin_cases k <;> rfl

theorem row_build {r : Row} (hr : r ∈ opcodeRows) (w : Word) : row (r.build w) = r := by
  obtain ⟨k, hk, rfl⟩ := List.getElem_of_mem hr
  exact congrArg (fun j : Fin 18 => opcodeRows[j]) (rowIndex_build ⟨k, hk⟩ w)

/-- A word is the command `i` when it matches `i`'s row and its fields are `i`'s operands. -/
theorem decode_eq_ok_iff {w : Word} {i : Instr} :
    decode w = .ok i ↔ w &&& (row i).mask = (row i).pattern ∧ (row i).build w = i := by
  constructor
  · intro h
    obtain ⟨r, hr, accepts, rfl⟩ := decode_ok h
    rw [row_build hr]
    exact ⟨accepts_iff.mp accepts, rfl⟩
  · rintro ⟨matched, built⟩
    rw [decode_of_matches (row_mem i) matched, built]

/-! ### Decoding an encoded command (30_encoding.md R80 to R83) -/

theorem encode_matches (i : Instr) : encode i &&& (row i).mask = (row i).pattern := by
  cases i with
  | nop => exact nop
  | mov => exact mov ..
  | ldi => exact ldi ..
  | add => exact add ..
  | mul => exact mul ..
  | mod => exact mod ..
  | mask => exact mask ..
  | shl => exact shl ..
  | shr => exact shr ..
  | xor => exact xor ..
  | cmp => exact cmp ..
  | topbit => exact topbit ..
  | modmul => exact modmul ..
  | modsqr => exact modsqr ..
  | modexp => exact modexp ..
  | lcg => exact lcg ..
  | lcgd => exact lcgd ..
  | xsh => exact xsh ..

theorem build_encode {i : Instr} (h : WellFormed i = true) : (row i).build (encode i) = i := by
  cases i with
  | nop => rfl
  | ldi | shl | shr =>
    simp [row, rowIndex, opcodeRows, substrateRows, modularRows, encode, formatI_fields _ _ _ h]
  | mov | add | mul | mod | mask | xor | cmp | topbit | modmul | modsqr | modexp | lcg | lcgd | xsh =>
    simp [row, rowIndex, opcodeRows, substrateRows, modularRows, encode, formatR_fields]

/-- Settles O20: the encoding matches the command's row, and its fields are the command's operands. -/
theorem decodeAfterEncode : Obligations.DecodeAfterEncode := by
  intro i h
  exact decode_eq_ok_iff.mpr ⟨encode_matches i, build_encode h⟩

/-! ### Encoding a decoded word (30_encoding.md R85) -/

/-- A row's fixed bits and its used fields cover the word. -/
theorem encode_of_matches {w : Word} {i : Instr} (matched : w &&& (row i).mask = (row i).pattern)
    (built : (row i).build w = i) : encode i = w := by
  cases i with
  | nop => exact matched.symm.trans BitVec.and_allOnes
  | mov | mask | topbit | lcgd | xsh =>
    cases built
    exact formatR_of_cover 0xFC03FFFF#32 matched (placeReg_extract w 22) (placeReg_extract w 18) (placeReg_unused w 14)
      (placeReg_unused w 10) (by decide)
  | add | mul | mod | xor | modsqr =>
    cases built
    exact formatR_of_cover 0xFC003FFF#32 matched (placeReg_extract w 22) (placeReg_extract w 18)
      (placeReg_extract w 14) (placeReg_unused w 10) (by decide)
  | modmul | modexp | lcg =>
    cases built
    exact formatR_of_cover 0xFC0003FF#32 matched (placeReg_extract w 22) (placeReg_extract w 18)
      (placeReg_extract w 14) (placeReg_extract w 10) (by decide)
  | cmp =>
    cases built
    exact formatR_of_cover 0xFFC03FFF#32 matched (placeReg_unused w 22) (placeReg_extract w 18) (placeReg_extract w 14)
      (placeReg_unused w 10) (by decide)
  | ldi =>
    cases built
    exact formatI_of_cover 0xFC3F0000#32 matched (placeReg_extract w 22) (placeReg_unused w 18) (by decide)
  | shl | shr =>
    cases built
    exact formatI_of_cover 0xFC030000#32 matched (placeReg_extract w 22) (placeReg_extract w 18) (by decide)

/-- Settles O21: the word matches the command's row and holds its operands, and these are all its bits. -/
theorem encodeAfterDecode : Obligations.EncodeAfterDecode := by
  intro w i h
  obtain ⟨matched, built⟩ := decode_eq_ok_iff.mp h
  exact encode_of_matches matched built

end rows

/-! ### Words of no row (30_encoding.md R89) -/

theorem engineStep_takesIllegal {s : State} (h : ∀ r ∈ opcodeRows, s.pend.word &&& r.mask ≠ r.pattern) :
    ∃ t, engineStep s = .next t ∧ TakesFault s t 1#4 := by
  have rejected : ∀ r ∈ opcodeRows, r.accepts s.pend.word = false := fun r hr =>
    Bool.eq_false_iff.mpr (mt accepts_iff.mp (h r hr))
  exact ⟨_, engineStep_illegal (decode_rejected rejected), complete_fault s .illegal⟩

/-- A reserved opcode (30_encoding.md R84, R89). -/
def ReservedOpcode (op : Nat) : Prop :=
  (0x0C ≤ op ∧ op ≤ 0x0F) ∨ (0x13 ≤ op ∧ op ≤ 0x17) ∨ (0x1B ≤ op ∧ op ≤ 0x3F)

theorem not_reservedOpcode_of_mem : ∀ r ∈ opcodeRows, ¬ReservedOpcode (opField r.pattern).toNat := by
  unfold ReservedOpcode
  decide

theorem no_row_of_reservedOpcode {w : Word} (h : ReservedOpcode (opField w).toNat) :
    ∀ r ∈ opcodeRows, w &&& r.mask ≠ r.pattern := fun r hr matched =>
  not_reservedOpcode_of_mem r hr (opField_of_matches hr matched ▸ h)

/-- The only row with the word's opcode is `r`. -/
theorem no_row_of_reservedField {r : Row} (hr : r ∈ opcodeRows) {w : Word} (hop : opField w = opField r.pattern)
    (h : w &&& r.mask ≠ r.pattern) : ∀ r' ∈ opcodeRows, w &&& r'.mask ≠ r'.pattern := fun r' hr' matched => by
  obtain rfl := row_eq_of_opField hr hr' (hop.symm.trans (opField_of_matches hr' matched))
  exact h matched

theorem decode_eq_nop_iff (w : Word) : decode w = .ok .nop ↔ w = 0x00000000#32 :=
  ⟨fun h => (encodeAfterDecode w .nop h).symm, fun h => h ▸ decodeAfterEncode .nop rfl⟩

/-- Settles O23: a reserved opcode is no row's, and a listed one is one row's only. -/
theorem illegalWordsCompleteWithIllegal : Obligations.IllegalWordsCompleteWithIllegal := by
  refine ⟨?illegal, ?accepted, decode_eq_nop_iff⟩
  case illegal =>
    rintro s (reserved | ⟨r, hr, hop, hfield⟩)
    · exact engineStep_takesIllegal (no_row_of_reservedOpcode reserved)
    · exact engineStep_takesIllegal (no_row_of_reservedField hr hop hfield)
  case accepted =>
    intro s v idle noErr
    rw [issue_accepted s v ⟨idle, noErr⟩]
    exact ⟨rfl, rfl, rfl⟩

/-! ### The engine step (30_encoding.md R86, R87) -/

theorem complete_compare (s : State) (x y : Nat) :
    SetsFlags s (s.complete (compareResult x y)) (x = y) (x < y) := by
  have flags := complete_flags s (flagEq x y) (flagLt x y)
  simp only [flagEq_iff, flagLt_iff] at flags
  exact flags

/-- Settles O27: a word of no row completes with ILLEGAL; a command completes with its result, whose
kind its destination fixes. -/
theorem everyEngineStepIsOneCompletion : Obligations.EveryEngineStepIsOneCompletion := by
  intro s
  cases hd : decode s.pend.word with
  | error e => exact ⟨_, engineStep_illegal hd, .inr (.inr (.inr ⟨_, complete_fault s _⟩))⟩
  | ok i =>
    refine ⟨_, (engineStep_ok hd).trans (exec_eq_complete i s), ?_⟩
    cases hdest : destination i with
    | some rd =>
      obtain ⟨v, hr⟩ | ⟨c, hr⟩ := commandResult_of_destination hdest s
      · exact .inl ⟨i, rd, v, rfl, hdest, hr ▸ complete_write s rd v⟩
      · exact .inr (.inr (.inr ⟨c.code, hr ▸ complete_fault s c⟩))
    | none =>
      obtain rfl | ⟨rs1, rs2, rfl⟩ := destination_eq_none hdest
      · exact .inr (.inr (.inl ⟨rfl, complete_nothing s⟩))
      · exact .inr (.inl ⟨rs1, rs2, rfl, complete_compare s (s.reg rs1) (s.reg rs2)⟩)

theorem step_eq_engineTurn {s : State} {rest : List Input}
    (h : s.inputs = .engineTurn :: rest ∨ (s.inputs = [] ∧ rest = [])) :
    step s = engineTurn { s with inputs := rest } := by
  obtain hturn | ⟨hnil, rfl⟩ := h
  · exact step_engineTurn hturn
  · rw [step_noInput hnil, ← hnil]

/-- Settles O24: the turn is `engineTurn`'s among the inputs that are left. -/
theorem stepRunsDecodedCommand : Obligations.StepRunsDecodedCommand := by
  intro s rest h
  rw [step_eq_engineTurn h]
  refine ⟨?decoded, ?illegal, engineTurn_idle (s := { s with inputs := rest })⟩
  case decoded =>
    intro busy i hd
    exact (engineTurn_busy (s := { s with inputs := rest }) busy).trans
      (engineStep_ok (s := { s with inputs := rest }) hd)
  case illegal =>
    intro busy noRow
    rw [engineTurn_busy (s := { s with inputs := rest }) busy]
    exact engineStep_takesIllegal (s := { s with inputs := rest }) noRow

end Sys2Proof.Proofs

/-! PROOFS. 40_bigint.md R101 to R107: each substrate command has its row of the opcode map, and its result, exact, checked
against the modulus or checked against W, is completed with its whole frame. The words of the spec's examples. -/

namespace Sys2Proof.Proofs

open Sys2Proof.Machine Sys2Proof.Claims Sys2Proof.Laws

/-! ### The row of a command (30_encoding.md R83, R85, R89) -/

theorem rowRuns_of_mem {r : Row} (hr : r ∈ opcodeRows) : RowRuns r.pattern r.mask r.build := by
  intro s
  constructor
  · intro matched
    have decoded := decode_of_matches hr matched
    exact ⟨decoded, engineStep_ok decoded⟩
  · intro sameOpcode nonzeroField
    exact engineStep_takesIllegal (no_row_of_reservedField hr sameOpcode nonzeroField)

/-- The row depends on the mnemonic of `i` only, so any operands name it. -/
theorem rowRuns_row (i : Instr) :
    RowRuns (MatchesRow.row i).pattern (MatchesRow.row i).mask (MatchesRow.row i).build :=
  rowRuns_of_mem (row_mem i)

/-! ### From the result of a command to its completion (60_exceptions.md R213, R214) -/

section completion

variable {i : Instr} {s : State} {rd : RegIx}

theorem exec_writesReg {v : Nat} (h : commandResult s i = .write rd v) :
    ∃ t, exec i s = .next t ∧ WritesReg s t rd v :=
  ⟨_, exec_eq_complete i s, h ▸ complete_write s rd v⟩

theorem exec_takesFault {c : FaultCode} (h : commandResult s i = .fault c) :
    ∃ t, exec i s = .next t ∧ TakesFault s t c.code :=
  ⟨_, exec_eq_complete i s, h ▸ complete_fault s c⟩

/-- 40_bigint.md R100: an exact result is written where it fits, and is OVERFLOW where it does not. -/
theorem exec_of_exactResult {v : Nat} (h : commandResult s i = exactResult s.params.regBits rd v) :
    (v < 2 ^ s.params.regBits → ∃ t, exec i s = .next t ∧ WritesReg s t rd v) ∧
    (2 ^ s.params.regBits ≤ v → ∃ t, exec i s = .next t ∧ TakesFault s t 4#4) :=
  ⟨fun fits => exec_writesReg (h.trans (exactResult_fits fits)),
   fun overflow => exec_takesFault (h.trans (exactResult_overflow overflow))⟩

/-- 60_exceptions.md R211: a result modulo `n` is written where `n` is not 0, and is DIV_ZERO where it is. -/
theorem exec_of_withModulus {n : Nat} {f : Nat → Nat} (h : commandResult s i = withModulus n fun m => .write rd (f m)) :
    (n ≠ 0 → ∃ t, exec i s = .next t ∧ WritesReg s t rd (f n)) ∧
    (n = 0 → ∃ t, exec i s = .next t ∧ TakesFault s t 3#4) := by
  refine ⟨fun nonzero => exec_writesReg (h.trans (withModulus_pos nonzero)), ?_⟩
  rintro rfl
  exact exec_takesFault (h.trans withModulus_zero)

/-- 30_encoding.md R88: a result at width W is written where W is legal, and is INVALID_PARAM where it is not. -/
theorem exec_of_withWidth {f : Nat → Nat} (h : commandResult s i = s.withWidth fun w => .write rd (f w)) :
    (WidthLegal s → ∃ t, exec i s = .next t ∧ WritesReg s t rd (f s.W)) ∧
    (¬WidthLegal s → ∃ t, exec i s = .next t ∧ TakesFault s t 2#4) :=
  ⟨fun legal => exec_writesReg (h.trans (withWidth_legal s legal)),
   fun illegal => exec_takesFault (h.trans (withWidth_illegal s illegal))⟩

end completion

/-! ### ADD, MUL and MOD (40_bigint.md R101 to R103) -/

/-- Settles O5: ADD's result is the exact sum's. -/
theorem addWritesExactSumOrOverflows : Obligations.AddWritesExactSumOrOverflows :=
  ⟨rowRuns_row (.add 0 0 0), fun _ _ _ _ => exec_of_exactResult rfl⟩

/-- Settles O6: MUL's result is the exact product's. -/
theorem mulWritesExactProductOrOverflows : Obligations.MulWritesExactProductOrOverflows :=
  ⟨rowRuns_row (.mul 0 0 0), fun _ _ _ _ => exec_of_exactResult rfl⟩

/-- Settles O7: the value below the modulus is the remainder of the division, and the quotient is its witness. -/
theorem modWritesLeastRemainder : Obligations.ModWritesLeastRemainder := by
  refine ⟨rowRuns_row (.mod 0 0 0), fun rd rs1 rs2 s => ?_⟩
  obtain ⟨writes, faults⟩ := exec_of_withModulus (i := .mod rd rs1 rs2) (s := s) rfl
  refine ⟨fun nonzero => ⟨s.reg rs1 % s.reg rs2, ?below, ⟨s.reg rs1 / s.reg rs2, ?quotient⟩, writes nonzero⟩, faults⟩
  case below => exact Nat.mod_lt _ (Nat.pos_of_ne_zero nonzero)
  case quotient => exact (Nat.div_add_mod' _ _).symm

/-! ### MASK, SHL and SHR (40_bigint.md R104 to R106) -/

/-- Settles O8: MASK's result passes the width check and is then the residue. -/
theorem maskReducesModTwoPowW : Obligations.MaskReducesModTwoPowW :=
  ⟨rowRuns_row (.mask 0 0), fun _ rs1 s => exec_of_withWidth (f := fun w => s.reg rs1 % 2 ^ w) rfl⟩

/-- Settles O9: a left shift is a product with a power of two. -/
theorem shlShiftsThenMasks : Obligations.ShlShiftsThenMasks := by
  refine ⟨rowRuns_row (.shl 0 0 0), fun _ rs1 imm s _ => ?_⟩
  rw [← Nat.shiftLeft_eq]
  exact exec_of_withWidth (f := fun w => (s.reg rs1 <<< imm) % 2 ^ w) rfl

/-- Settles O10: a logical right shift is a quotient by a power of two. -/
theorem shrShiftsThenMasks : Obligations.ShrShiftsThenMasks := by
  refine ⟨rowRuns_row (.shr 0 0 0), fun _ rs1 imm s _ => ?_⟩
  rw [← Nat.shiftRight_eq_div_pow]
  exact exec_of_withWidth (f := fun w => (s.reg rs1 >>> imm) % 2 ^ w) rfl

/-! ### XOR (40_bigint.md R107) -/

/-- Settles O11: the bits of the exclusive OR are the exclusive ORs of the bits. -/
theorem xorIsBitwiseUnmasked : Obligations.XorIsBitwiseUnmasked :=
  ⟨rowRuns_row (.xor 0 0 0), fun _ rs1 rs2 s =>
    ⟨s.reg rs1 ^^^ s.reg rs2, Nat.testBit_xor _ _, exec_writesReg rfl⟩⟩

/-! ### The words of the spec's examples (30_encoding.md R80 to R83, R89) -/

theorem decode_of_encode_eq {w : Word} {i : Instr} (wellFormed : WellFormed i = true) (encoded : encode i = w) :
    decode w = .ok i :=
  encoded ▸ decodeAfterEncode i wellFormed

theorem decode_of_no_row {w : Word} {e : DecodeError} (h : ∀ r ∈ opcodeRows, r.accepts w = false)
    (name : rejection w = e) : decode w = .error e :=
  name ▸ decode_rejected h

/-- Settles O19: each example word is its command's encoding, or no row accepts it. -/
theorem decodeReadsSpecExampleWords : Obligations.DecodeReadsSpecExampleWords :=
  ⟨decode_of_encode_eq rfl (by decide), decode_of_encode_eq rfl (by decide), decode_of_encode_eq rfl (by decide),
   decode_of_encode_eq rfl (by decide), decode_of_encode_eq rfl (by decide),
   decode_of_no_row (by decide) (by decide), decode_of_no_row (by decide) (by decide)⟩

end Sys2Proof.Proofs

/-! PROOFS. 41_modexp.md R140 to R144: the residues that MODMUL, MODSQR and MODEXP write, the short forms of commands, and
runs of issued commands that write one register, of which the squaring chain is one. -/

namespace Sys2Proof.Proofs

open Sys2Proof.Machine Sys2Proof.Claims Sys2Proof.Laws

/-! ### MODMUL, MODSQR and MODEXP (41_modexp.md R140 to R142) -/

/-- Settles O12: MODMUL's result is the residue of the product. -/
theorem modmulWritesResidueOfProduct : Obligations.ModmulWritesResidueOfProduct :=
  ⟨rowRuns_row (.modmul 0 0 0 0), fun _ rs1 rs2 _ s =>
    exec_of_withModulus (f := fun n => s.reg rs1 * s.reg rs2 % n) rfl⟩

/-- Settles O13: MODSQR's result is the residue of the product of the register with itself. -/
theorem modsqrWritesResidueOfSquare : Obligations.ModsqrWritesResidueOfSquare := by
  refine ⟨rowRuns_row (.modsqr 0 0 0), fun _ rs1 _ s => ?_⟩
  rw [sq]
  exact exec_of_withModulus (f := fun n => s.reg rs1 * s.reg rs1 % n) rfl

/-- Settles O14: repeated squaring gives the residue of the exact power, by `modPow_eq`. -/
theorem modexpWritesResidueOfExactPower : Obligations.ModexpWritesResidueOfExactPower := by
  refine ⟨rowRuns_row (.modexp 0 0 0 0), fun _ rs1 rs2 _ s => ?_⟩
  rw [← modPow_eq]
  exact exec_of_withModulus (f := modPow (s.reg rs1) (s.reg rs2)) rfl

/-! ### The short forms (41_modexp.md R141; 42_prng.md R163) -/

theorem exec_eq_of_result_eq {i i' : Instr} {s : State} (h : commandResult s i = commandResult s i') :
    exec i s = exec i' s := by
  rw [exec_eq_complete, exec_eq_complete, h]

/-- Settles O58: the two commands of each pair have the same result. -/
theorem shortFormsEqualLongForms : Obligations.ShortFormsEqualLongForms := by
  refine ⟨fun _ _ _ _ => exec_eq_of_result_eq rfl, fun _ _ _ _ _ multiplier increment => exec_eq_of_result_eq ?_⟩
  simp only [commandResult, multiplier, increment, lcgMultiplier, lcgIncrement]

/-! ### Runs of commands that write one register (20_memory.md R54, R63; 30_encoding.md R86) -/

/-- `t` accepts a command, and has the parameters, WIDTH and every register but `rd` as `s` has them. -/
structure ReadyLike (rd : RegIx) (s t : State) : Prop where
  idle : t.busy = false
  noErr : t.status.err = false
  params : t.params = s.params
  width : t.width = s.width
  others : ∀ r, r ≠ rd → t.reg r = s.reg r

theorem ReadyLike.trans {rd : RegIx} {s t u : State} (h : ReadyLike rd s t) (h' : ReadyLike rd t u) :
    ReadyLike rd s u where
  idle := h'.idle
  noErr := h'.noErr
  params := h'.params.trans h.params
  width := h'.width.trans h.width
  others := fun r hr => (h'.others r hr).trans (h.others r hr)

/-- `RunLeaves` with the parameters and WIDTH as in `s` too, so that a further command can be issued where the run ends. -/
def RunWrites (s : State) (schedule rest : List Input) (n : Nat) (rd : RegIx) (v : Nat) : Prop :=
  ∃ t, Host.Core.run core n { s with inputs := schedule } = .next t ∧ t.inputs = rest ∧ t.reg rd = v ∧ ReadyLike rd s t

section runs

variable {s : State} {i : Instr} {rd : RegIx} {schedule middle rest : List Input} {m n v v' : Nat}

theorem RunWrites.runLeaves (h : RunWrites s schedule rest n rd v) : RunLeaves s schedule rest n rd v := by
  obtain ⟨t, run, inputs, written, ready⟩ := h
  exact ⟨t, run, inputs, ready.idle, ready.noErr, written, ready.others⟩

theorem RunWrites.trans (first : RunWrites s schedule middle m rd v)
    (second : ∀ t, ReadyLike rd s t → t.reg rd = v → RunWrites t middle rest n rd v') :
    RunWrites s schedule rest (m + n) rd v' := by
  obtain ⟨t, run, rfl, written, ready⟩ := first
  obtain ⟨u, run', inputs', written', ready'⟩ := second t ready written
  exact ⟨u, (run_add run).trans run', inputs', written', ready.trans ready'⟩

theorem runWrites_nothing (idle : s.busy = false) (noErr : s.status.err = false) :
    RunWrites s rest rest 0 rd (s.reg rd) :=
  ⟨{ s with inputs := rest }, run_zero _, rfl, rfl, idle, noErr, rfl, rfl, fun _ _ => rfl⟩

/-- One command, issued and run: its result is that of the accepted state, whose W is WIDTH's. -/
theorem runWrites_command (wellFormed : WellFormed i = true) (idle : s.busy = false) (noErr : s.status.err = false)
    (result : commandResult (s.accept (encode i)) i = .write rd v) :
    RunWrites s (runCommand s.params i ++ rest) rest 2 rd v := by
  have executed := run_command (rest := rest) (decodeAfterEncode i wellFormed) idle noErr
  obtain ⟨t, ht, writes⟩ := exec_writesReg (s := acceptedTurn s (encode i) rest)
    ((commandResult_inEnvironment (s.accept (encode i)) rest _ i).trans result)
  exact ⟨t, executed.trans ht, writes.inputs, writes.written,
    writes.busy, writes.err.trans noErr, writes.params, writes.width, writes.others⟩

/-- The same command issued and run `k` times goes `k` terms along a sequence that each run of it goes one term along. -/
theorem runWrites_times (wellFormed : WellFormed i = true) (k : Nat) :
    ∀ {s : State} (x : Nat → Nat), s.busy = false → s.status.err = false → s.reg rd = x 0 →
    (∀ j t, ReadyLike rd s t → t.reg rd = x j → commandResult (t.accept (encode i)) i = .write rd (x (j + 1))) →
    RunWrites s (runTimes s.params i k rest) rest (2 * k) rd (x k) := by
  induction k with
  | zero =>
    intro s x idle noErr start _
    exact start ▸ runWrites_nothing idle noErr
  | succ k ih =>
    intro s x idle noErr start next
    rw [Nat.mul_succ, Nat.add_comm (2 * k)]
    have self : ReadyLike rd s s := ⟨idle, noErr, rfl, rfl, fun _ _ => rfl⟩
    refine (runWrites_command wellFormed idle noErr (next 0 s self start)).trans fun t ready written => ?_
    rw [← ready.params]
    exact ih (fun j => x (j + 1)) ready.idle ready.noErr written fun j u ready' => next (j + 1) u (ready.trans ready')

end runs

/-! ### The squaring chain (41_modexp.md R144) -/

/-- Squaring a residue of a power doubles the exponent. -/
theorem residue_sq_eq_double_exponent (b e n j : Nat) :
    b ^ (2 ^ j * e) % n * (b ^ (2 ^ j * e) % n) % n = b ^ (2 ^ (j + 1) * e) % n := by
  rw [← Nat.mul_mod, ← pow_add, ← two_mul, ← mul_assoc, ← pow_succ']

theorem commandResult_modexp {s : State} {rd rs1 rs2 rs3 : RegIx} (nonzero : s.reg rs3 ≠ 0) :
    commandResult s (.modexp rd rs1 rs2 rs3) = .write rd (s.reg rs1 ^ s.reg rs2 % s.reg rs3) := by
  rw [commandResult, withModulus_pos nonzero, modPow_eq]

theorem commandResult_modsqr {s : State} {rd rs1 rs2 : RegIx} (nonzero : s.reg rs2 ≠ 0) :
    commandResult s (.modsqr rd rs1 rs2) = .write rd (s.reg rs1 * s.reg rs1 % s.reg rs2) := by
  rw [commandResult, withModulus_pos nonzero]

/-- `k` squarings in place, of a residue modulo another register, go `k` terms along the residues of `b ^ (2 ^ j * e)`. -/
theorem runWrites_squarings {s : State} {rd rn : RegIx} {b e : Nat} {rest : List Input} (k : Nat)
    (idle : s.busy = false) (noErr : s.status.err = false) (distinct : rd ≠ rn) (nonzero : s.reg rn ≠ 0)
    (start : s.reg rd = b ^ e % s.reg rn) :
    RunWrites s (runTimes s.params (.modsqr rd rd rn) k rest) rest (2 * k) rd (b ^ (2 ^ k * e) % s.reg rn) := by
  refine runWrites_times rfl k (fun j => b ^ (2 ^ j * e) % s.reg rn) idle noErr ?_ fun j t ready value => ?_
  · rw [start, pow_zero, one_mul]
  · have modulus : t.reg rn = s.reg rn := ready.others rn distinct.symm
    rw [commandResult_modsqr (modulus ▸ nonzero), accept_reg, accept_reg, modulus, value,
      residue_sq_eq_double_exponent]

/-- Settles O56: MODEXP leaves the residue of the power, and the squarings go on from there under the same modulus, whose
register is not the one squared. -/
theorem squaringChainIsOneExponentiation : Obligations.SquaringChainIsOneExponentiation := by
  intro rd ra re rn s k rest idle noErr distinct nonzero
  have power : ∀ rest, RunWrites s (runCommand s.params (.modexp rd ra re rn) ++ rest) rest 2 rd
      (s.reg ra ^ s.reg re % s.reg rn) :=
    fun _ => runWrites_command rfl idle noErr (commandResult_modexp nonzero)
  refine ((power _).trans fun t ready written => ?_).runLeaves
  have modulus : t.reg rn = s.reg rn := ready.others rn distinct.symm
  rw [← modulus] at nonzero written
  rw [← ready.params, ← modulus]
  exact runWrites_squarings k ready.idle ready.noErr distinct nonzero written

end Sys2Proof.Proofs

/-! PROOFS. 42_prng.md R160 to R169: the two checks of a generator command, the value each writes, the width that value has,
the fixed points of XSH, and runs of one generator in place. -/

namespace Sys2Proof.Proofs

open Sys2Proof.Machine Sys2Proof.Claims Sys2Proof.Laws

/-! ### The two checks (42_prng.md R160) -/

/-- The result passes the checks of R160, and is then `f` of W and of `R[rs1]`, written to `R[rd]`. -/
def StepsRanged (s : State) (i : Instr) (rd rs1 : RegIx) (f : Nat → Nat → Nat) : Prop :=
  commandResult s i = s.withRanged rs1 fun w x => .write rd (f w x)

section checks

variable {s : State} {i : Instr} {rd rs1 : RegIx} {f : Nat → Nat → Nat}

theorem StepsRanged.result (h : StepsRanged s i rd rs1 f) (legal : WidthLegal s) (inRange : s.reg rs1 < 2 ^ s.W) :
    commandResult s i = .write rd (f s.W (s.reg rs1)) :=
  h.trans (withRanged_legal s legal inRange)

theorem StepsRanged.writes (h : StepsRanged s i rd rs1 f) (legal : WidthLegal s) (inRange : s.reg rs1 < 2 ^ s.W) :
    ∃ t, exec i s = .next t ∧ WritesReg s t rd (f s.W (s.reg rs1)) :=
  exec_writesReg (h.result legal inRange)

/-- The two causes of INVALID_PARAM, in the order of the checks. -/
theorem StepsRanged.faults (h : StepsRanged s i rd rs1 f) :
    (WidthLegal s → 2 ^ s.W ≤ s.reg rs1 → ∃ t, exec i s = .next t ∧ TakesFault s t 2#4) ∧
    (¬WidthLegal s → ∃ t, exec i s = .next t ∧ TakesFault s t 2#4) :=
  ⟨fun legal outOfRange => exec_takesFault (h.trans (withRanged_outOfRange s legal outOfRange)),
   fun illegal => exec_takesFault (h.trans (withRanged_badWidth s illegal))⟩

/-- What holds of the value that a command writes holds of the destination register after it. -/
theorem StepsRanged.destination {p : Nat → Prop} (h : StepsRanged s i rd rs1 f) (legal : WidthLegal s)
    (inRange : s.reg rs1 < 2 ^ s.W) (value : p (f s.W (s.reg rs1))) : ∃ t, exec i s = .next t ∧ p (t.reg rd) := by
  obtain ⟨t, executed, writes⟩ := h.writes legal inRange
  exact ⟨t, executed, writes.written.symm ▸ value⟩

end checks

/-! ### The four commands (42_prng.md R161, R163, R166, R168) -/

section commands

variable (s : State) (rd rs1 rs2 rs3 : RegIx)

theorem lcg_stepsRanged : StepsRanged s (.lcg rd rs1 rs2 rs3) rd rs1 fun w x => lcgStep w (s.reg rs2) (s.reg rs3) x := rfl

theorem lcgd_stepsRanged : StepsRanged s (.lcgd rd rs1) rd rs1 fun w x => lcgStep w 1103515245 12345 x := rfl

theorem xsh_stepsRanged : StepsRanged s (.xsh rd rs1) rd rs1 xorshiftStep := rfl

theorem topbit_stepsRanged : StepsRanged s (.topbit rd rs1) rd rs1 fun w x => x ||| 2 ^ (w - 1) := rfl

end commands

/-! ### LCG and LCGD (42_prng.md R161, R163) -/

/-- Settles O15: `lcgStep` is the rule's formula. -/
theorem lcgStepsState : Obligations.LcgStepsState :=
  ⟨rowRuns_row (.lcg 0 0 0 0), fun rd rs1 rs2 rs3 s =>
    ⟨(lcg_stepsRanged s rd rs1 rs2 rs3).writes, (lcg_stepsRanged s rd rs1 rs2 rs3).faults⟩⟩

/-- Settles O16: LCGD is the same step with the constants of 10_state.md R36. -/
theorem lcgdStepsStateWithDefaults : Obligations.LcgdStepsStateWithDefaults :=
  ⟨rowRuns_row (.lcgd 0 0), fun rd rs1 s => ⟨(lcgd_stepsRanged s rd rs1).writes, (lcgd_stepsRanged s rd rs1).faults⟩⟩

/-! ### XSH (42_prng.md R165, R166) -/

/-- The rows of R165 exclude each other, so the branches tried from the top select the triple of W's row. -/
theorem shiftTriple_of_isTriple {w s1 s2 s3 : Nat} (h : IsTriple w s1 s2 s3) : shiftTriple w = (s1, s2, s3) := by
  unfold shiftTriple
  obtain ⟨hw, rfl, rfl, rfl⟩ | ⟨hlo, hhi, rfl, rfl, rfl⟩ | ⟨hlo, hhi, rfl, rfl, rfl⟩ | ⟨hlo, hhi, rfl, rfl, rfl⟩ |
    ⟨hw, rfl, rfl, rfl⟩ := h
  · rw [if_pos hw]
  · rw [if_neg (by omega), if_pos hhi]
  · rw [if_neg (by omega), if_neg (by omega), if_pos hhi]
  · rw [if_neg (by omega), if_neg (by omega), if_neg (by omega), if_pos hhi]
  · rw [if_neg (by omega), if_neg (by omega), if_neg (by omega), if_neg (by omega)]

/-- The model's step is R166's, whose shifts are products with and quotients by powers of two. -/
theorem xorshiftStep_eq_threeSubSteps {w s1 s2 s3 : Nat} (h : IsTriple w s1 s2 s3) (x : Nat) :
    xorshiftStep w x = threeSubSteps w s1 s2 s3 x := by
  simp only [xorshiftStep, shiftTriple_of_isTriple h, xorShiftLeft, xorShiftRight, threeSubSteps, Nat.shiftLeft_eq,
    Nat.shiftRight_eq_div_pow]

/-- Settles O17: the value written is that of the three sub-steps, by `xorshiftStep_eq_threeSubSteps`. -/
theorem xshRunsThreeSubSteps : Obligations.XshRunsThreeSubSteps := by
  refine ⟨rowRuns_row (.xsh 0 0), fun rd rs1 s => ⟨?_, (xsh_stepsRanged s rd rs1).faults⟩⟩
  rintro legal inRange s1 s2 s3 t0 t1 t2 t3 triple rfl rfl rfl rfl
  have writes := (xsh_stepsRanged s rd rs1).writes legal inRange
  rw [xorshiftStep_eq_threeSubSteps triple] at writes
  exact writes

/-! ### TOPBIT (42_prng.md R168) -/

/-- Settles O18: the bits of `2 ^ (W - 1)` are bit W-1 alone. -/
theorem topbitForcesTopBit : Obligations.TopbitForcesTopBit := by
  refine ⟨rowRuns_row (.topbit 0 0), fun rd rs1 s => ⟨fun legal inRange => ?_, (topbit_stepsRanged s rd rs1).faults⟩⟩
  refine ⟨s.reg rs1 ||| 2 ^ (s.W - 1), fun k => ?_, (topbit_stepsRanged s rd rs1).writes legal inRange⟩
  simp only [Nat.testBit_or, Nat.testBit_two_pow, Bool.or_comm, eq_comm (a := k)]

/-! ### The width of a result (00_scope.md R8; 10_state.md R23) -/

theorem bitlen_eq_succ {v k : Nat} (lower : 2 ^ k ≤ v) (upper : v < 2 ^ (k + 1)) : bitlen v = k + 1 := by
  have nonzero : v ≠ 0 := (lower.trans_lt' (by positivity)).ne'
  rw [bitlen, if_neg nonzero, (Nat.log2_eq_iff nonzero).2 ⟨lower, upper⟩]

theorem bitlen_or_topBit {w x : Nat} (positive : 1 ≤ w) (inRange : x < 2 ^ w) : bitlen (x ||| 2 ^ (w - 1)) = w := by
  obtain ⟨k, rfl⟩ := Nat.exists_eq_add_of_le' positive
  rw [Nat.add_sub_cancel]
  have bit : 2 ^ k < 2 ^ (k + 1) := Nat.pow_lt_pow_succ (by decide)
  exact bitlen_eq_succ Nat.right_le_or (Nat.or_lt_two_pow inRange bit)

/-- Settles O60: the forced bit fixes the candidate's bit length, and each generator's step stays below 2^W. -/
theorem candidateHasBitLengthWStatesStayBelow : Obligations.CandidateHasBitLengthWStatesStayBelow := by
  intro rd rs1 rs2 rs3 s legal inRange
  refine ⟨?topbit, ?lcg, ?lcgd, ?xsh⟩
  case topbit =>
    exact (topbit_stepsRanged s rd rs1).destination (p := (bitlen · = s.W)) legal inRange
      (bitlen_or_topBit legal.1 inRange)
  case lcg => exact (lcg_stepsRanged s rd rs1 rs2 rs3).destination (p := (· < 2 ^ s.W)) legal inRange (lcgStep_lt ..)
  case lcgd => exact (lcgd_stepsRanged s rd rs1).destination (p := (· < 2 ^ s.W)) legal inRange (lcgStep_lt ..)
  case xsh =>
    exact (xsh_stepsRanged s rd rs1).destination (p := (· < 2 ^ s.W)) legal inRange (xorshiftStep_lt _ _ inRange)

/-! ### The fixed points of XSH (42_prng.md R167, R169) -/

theorem xorshiftStep_zero (w : Nat) : xorshiftStep w 0 = 0 := by
  simp [xorshiftStep, xorShiftLeft, xorShiftRight]

/-- A left shift by W or more leaves nothing below 2^W. -/
theorem xorShiftLeft_of_width_le {w n : Nat} (h : w ≤ n) (t : Nat) : xorShiftLeft w n t = t := by
  have cleared : (t <<< n) % 2 ^ w = 0 := by
    rw [Nat.shiftLeft_eq]
    exact Nat.mod_eq_zero_of_dvd ((pow_dvd_pow 2 h).mul_left t)
  rw [xorShiftLeft, cleared, Nat.xor_zero]

/-- A right shift by W or more leaves nothing of a state below 2^W. -/
theorem xorShiftRight_of_width_le {w n t : Nat} (h : w ≤ n) (inRange : t < 2 ^ w) : xorShiftRight w n t = t := by
  have cleared : t >>> n = 0 := Nat.shiftRight_eq_zero _ _ (inRange.trans_le (Nat.pow_le_pow_right (by decide) h))
  rw [xorShiftRight, cleared, Nat.zero_mod, Nat.xor_zero]

/-- At a width of 5 or less every shift of the triple (13, 17, 5) is by W or more. -/
theorem xorshiftStep_of_width_le_five {w x : Nat} (small : w ≤ 5) (inRange : x < 2 ^ w) : xorshiftStep w x = x := by
  have triple : shiftTriple w = (13, 17, 5) := if_pos (by omega)
  rw [xorshiftStep, triple, xorShiftLeft_of_width_le (by omega : w ≤ 13),
    xorShiftRight_of_width_le (by omega : w ≤ 17) inRange, xorShiftLeft_of_width_le small]

/-- Settles O59: XSH writes its step of the state, of which zero, and every state at a small width, is a fixed point. -/
theorem xorshiftFixedPoints : Obligations.XorshiftFixedPoints := by
  intro rd rs1 s legal
  have writes := (xsh_stepsRanged s rd rs1).writes legal
  constructor
  · intro zero
    rw [zero, xorshiftStep_zero] at writes
    exact writes (by positivity)
  · intro small inRange
    rw [xorshiftStep_of_width_le_five small inRange] at writes
    exact writes inRange

/-! ### A generator in place, issued and run k times (42_prng.md R162, R164, R166) -/

/-- Every accepted state of the run applies `f` to `R[r]` at WIDTH's value, which no command of the run changes; so from a seed
below 2^W, and with `f` staying there, the range check passes each time. -/
theorem generator_iterates {s : State} {i : Instr} {r : RegIx} {f : Nat → Nat → Nat} (k : Nat) (rest : List Input)
    (wellFormed : WellFormed i = true) (ready : ReadyAtLegalWidth s) (seed : s.reg r < 2 ^ s.width.toNat)
    (below : ∀ w x, x < 2 ^ w → f w x < 2 ^ w)
    (steps : ∀ t, ReadyLike r s t → StepsRanged (t.accept (encode i)) i r r f) :
    ∃ v, v = (f s.width.toNat)^[k] (s.reg r) ∧ v < 2 ^ s.width.toNat ∧
      RunLeaves s (runTimes s.params i k rest) rest (2 * k) r v := by
  obtain ⟨idle, noErr, positive, small⟩ := ready
  have states_below : ∀ j, (f s.width.toNat)^[j] (s.reg r) < 2 ^ s.width.toNat := fun j =>
    Set.MapsTo.iterate (s := Set.Iio (2 ^ s.width.toNat)) (below _) j seed
  refine ⟨_, rfl, states_below k, RunWrites.runLeaves ?_⟩
  refine runWrites_times wellFormed k (fun j => (f s.width.toNat)^[j] (s.reg r)) idle noErr rfl fun j t like value => ?_
  have width : (t.accept (encode i)).W = s.width.toNat := congrArg BitVec.toNat like.width
  have legal : WidthLegal (t.accept (encode i)) := by
    rw [WidthLegal, width, accept_params, like.params]
    exact ⟨positive, small⟩
  have result := (steps t like).result legal (by rw [width, accept_reg, value]; exact states_below j)
  rwa [width, accept_reg, value, ← Function.iterate_succ_apply' (f s.width.toNat)] at result

/-- Settles O57: each of the three is a generator in place; LCG's multiplier and increment stand in registers that the run
leaves as they are. -/
theorem generatorIteratesItsStep : Obligations.GeneratorIteratesItsStep := by
  intro r s k rest ready seed
  refine ⟨?lcgd, fun ra rc ha hc => ?lcg, fun s1 s2 s3 triple => ?xsh⟩
  case lcgd =>
    exact generator_iterates (f := fun w x => lcgStep w 1103515245 12345 x) k rest rfl ready seed
      (fun _ _ _ => lcgStep_lt ..) fun t _ => lcgd_stepsRanged (t.accept _) r r
  case lcg =>
    refine generator_iterates (f := fun w x => lcgStep w (s.reg ra) (s.reg rc) x) k rest rfl ready seed
      (fun _ _ _ => lcgStep_lt ..) fun t like => ?_
    rw [← like.others ra ha.symm, ← like.others rc hc.symm]
    exact lcg_stepsRanged (t.accept _) r r ra rc
  case xsh =>
    rw [← funext (xorshiftStep_eq_threeSubSteps triple)]
    exact generator_iterates k rest rfl ready seed xorshiftStep_lt fun t _ => xsh_stepsRanged (t.accept _) r r

end Sys2Proof.Proofs

/-! PROOFS. 43_support.md R190 to R193: each support command has its row of the opcode map, and its result, which no check
can turn into a fault, is completed with its whole frame. -/

namespace Sys2Proof.Proofs

open Sys2Proof.Machine Sys2Proof.Claims Sys2Proof.Laws

/-! ### NOP (43_support.md R190) -/

/-- Settles O1: NOP's result is `Ok(none)`, whose completion touches only BUSY, PEND.valid and DONE. -/
theorem nopOnlyCompletes : Obligations.NopOnlyCompletes :=
  ⟨rowRuns_row .nop, fun s => ⟨_, exec_eq_complete .nop s, complete_nothing s⟩⟩

/-! ### MOV and LDI (43_support.md R191, R192) -/

/-- Settles O2: MOV's result writes the value `R[rs1]` has before the command, so `rd = rs1` is no special case. -/
theorem movCopiesRegister : Obligations.MovCopiesRegister :=
  ⟨rowRuns_row (.mov 0 0), fun _ _ _ => exec_writesReg rfl⟩

/-- Settles O3: zero extension keeps the immediate's value (30_encoding.md R82), and LDI's result writes it unchecked. -/
theorem ldiLoadsZeroExtendedImmediate : Obligations.LdiLoadsZeroExtendedImmediate :=
  ⟨rowRuns_row (.ldi 0 0), fun _ _ _ _ => exec_writesReg rfl⟩

/-! ### CMP (43_support.md R193) -/

/-- Settles O4: CMP's result is the comparison of the two registers, whose completion sets both flags. -/
theorem cmpSetsBothFlags : Obligations.CmpSetsBothFlags :=
  ⟨rowRuns_row (.cmp 0 0), fun rs1 rs2 s =>
    ⟨_, exec_eq_complete (.cmp rs1 rs2) s, complete_compare s (s.reg rs1) (s.reg rs2)⟩⟩

end Sys2Proof.Proofs

/-! PROOFS. 60_exceptions.md R214 and R215: the check that fails first fixes a command's result, whose fault code its
completion then reports with a whole frame; a result that is no fault leaves ERR and ERRCODE. -/

namespace Sys2Proof.Proofs

open Sys2Proof.Machine Sys2Proof.Claims Sys2Proof.Laws

/-! ### Completion and the fault state (60_exceptions.md R213, R214) -/

section completion

variable {s : State}

theorem complete_keeps_fault_state {r : Result} (noFault : ∀ c, r ≠ .fault c) :
    (s.complete r).status.err = s.status.err ∧ (s.complete r).status.errcode = s.status.errcode := by
  cases r with
  | write rd v => exact ⟨(complete_write s rd v).err, (complete_write s rd v).errcode⟩
  | flags e l => exact ⟨(complete_flags s e l).err, (complete_flags s e l).errcode⟩
  | nothing => exact ⟨(complete_nothing s).err, (complete_nothing s).errcode⟩
  | fault c => exact absurd rfl (noFault c)

theorem complete_takesFault {r : Result} {c : FaultCode} (h : r = .fault c) : TakesFault s (s.complete r) c.code :=
  h ▸ complete_fault s c

/-- Only the completion of a fault raises ERR. -/
theorem isFault_of_complete_raises_err {r : Result} (before : s.status.err = false)
    (after : (s.complete r).status.err = true) : ∃ c, r = .fault c := by
  by_contra noFault
  have kept := (complete_keeps_fault_state (s := s) (not_exists.mp noFault)).1
  simp [kept, before] at after

end completion

/-- Settles O26: every engine step completes with some result, and a result that raises ERR is a fault. -/
theorem faultCompletionIsPrecise : Obligations.FaultCompletionIsPrecise := by
  intro s t before stepped after
  obtain ⟨r, completed⟩ := engineStep_completes s
  obtain rfl : s.complete r = t := Host.Outcome.next.inj (completed.symm.trans stepped)
  obtain ⟨c, isFault⟩ := isFault_of_complete_raises_err before after
  obtain ⟨lower, upper⟩ := faultCode_bounds c
  exact ⟨c.code, lower, upper, complete_takesFault isFault⟩

/-! ### The result that each failing check gives (60_exceptions.md R211, R215) -/

section checks

variable {s : State} {i : Instr}

theorem widthLegal_of_passes (passes : ¬WidthFails i s) (isW : IsWCommand i) : WidthLegal s :=
  not_not.mp fun illegal => passes ⟨isW, illegal⟩

theorem commandResult_of_widthFails (fails : WidthFails i s) : commandResult s i = .fault .invalidParam := by
  obtain ⟨isW, illegal⟩ := fails
  cases i with
  | mask | shl | shr => rw [commandResult, withWidth_illegal s illegal]
  | topbit | lcg | lcgd | xsh => rw [commandResult, withRanged_badWidth s illegal]
  | nop | mov | ldi | add | mul | mod | xor | cmp | modmul | modsqr | modexp => exact isW.elim

theorem commandResult_of_rangeFails (widthPasses : ¬WidthFails i s) (fails : RangeFails i s) :
    commandResult s i = .fault .invalidParam := by
  obtain ⟨r, operand, tooLarge⟩ := fails
  cases i with
  | topbit | lcg | lcgd | xsh =>
    cases operand
    rw [commandResult, withRanged_outOfRange s (widthLegal_of_passes widthPasses trivial) tooLarge]
  | nop | mov | ldi | add | mul | mod | mask | shl | shr | xor | cmp | modmul | modsqr | modexp => exact operand.elim

theorem commandResult_of_modulusFails (fails : ModulusFails i s) : commandResult s i = .fault .divZero := by
  obtain ⟨r, operand, zero⟩ := fails
  cases i with
  | mod | modmul | modsqr | modexp =>
    cases operand
    rw [commandResult, zero, withModulus_zero]
  | nop | mov | ldi | add | mul | mask | shl | shr | xor | cmp | topbit | lcg | lcgd | xsh => exact operand.elim

theorem commandResult_of_exactFails (fails : ExactFails i s) : commandResult s i = .fault .overflow := by
  obtain ⟨v, value, tooWide⟩ := fails
  cases i with
  | add | mul =>
    cases value
    exact exactResult_overflow tooWide
  | nop | mov | ldi | mod | mask | shl | shr | xor | cmp | topbit | modmul | modsqr | modexp | lcg | lcgd | xsh =>
    exact value.elim

/-- A command has no check but these four. -/
theorem commandResult_of_allPass (widthPasses : ¬WidthFails i s) (rangePasses : ¬RangeFails i s)
    (modulusPasses : ¬ModulusFails i s) (exactPasses : ¬ExactFails i s) (c : FaultCode) :
    commandResult s i ≠ .fault c := by
  cases i with
  | nop | mov | ldi | xor | cmp => exact Result.noConfusion
  | add | mul =>
    have fits := Nat.lt_of_not_le fun tooWide => exactPasses ⟨_, rfl, tooWide⟩
    rw [commandResult, exactResult_fits fits]
    exact Result.noConfusion
  | mod | modmul | modsqr | modexp =>
    have nonzero := fun zero => modulusPasses ⟨_, rfl, zero⟩
    rw [commandResult, withModulus_pos nonzero]
    exact Result.noConfusion
  | mask | shl | shr =>
    rw [commandResult, withWidth_legal s (widthLegal_of_passes widthPasses trivial)]
    exact Result.noConfusion
  | topbit | lcg | lcgd | xsh =>
    have inRange := Nat.lt_of_not_le fun tooLarge => rangePasses ⟨_, rfl, tooLarge⟩
    rw [commandResult, withRanged_legal s (widthLegal_of_passes widthPasses trivial) inRange]
    exact Result.noConfusion

end checks

/-- Settles O25: a word of no row is ILLEGAL; a command's result is the fault of its first failing check, or no fault. -/
theorem firstFailingCheckGivesTheCode : Obligations.FirstFailingCheckGivesTheCode := by
  refine ⟨fun s noRow => engineStep_takesIllegal noRow, fun s i decoded => ?_⟩
  refine ⟨_, (engineStep_ok decoded).trans (exec_eq_complete i s), ?width, ?range, ?modulus, ?result, ?pass⟩
  case width => exact fun fails => complete_takesFault (commandResult_of_widthFails fails)
  case range => exact fun widthPasses fails => complete_takesFault (commandResult_of_rangeFails widthPasses fails)
  case modulus => exact fun _ _ fails => complete_takesFault (commandResult_of_modulusFails fails)
  case result => exact fun _ _ _ fails => complete_takesFault (commandResult_of_exactFails fails)
  case pass =>
    exact fun widthPasses rangePasses modulusPasses exactPasses =>
      complete_keeps_fault_state (commandResult_of_allPass widthPasses rangePasses modulusPasses exactPasses)

end Sys2Proof.Proofs

/-! PROOFS. 70_reset_and_hazards.md: the soft reset as a step (R241), the block that answers every event (R247), and the end
of a run (R250), in the schedule of log entry 3. -/

namespace Sys2Proof.Proofs

open Sys2Proof.Machine Sys2Proof.Claims Sys2Proof.Laws

/-! ### The soft reset (70_reset_and_hazards.md R241) -/

theorem step_softReset {s : State} {v : Word} {rest : List Input} (srst : v[1] = true)
    (h : Presents s (portWrite s 0x008 .word v) rest) :
    step s = .next (inEnvironment (State.resetWith s.params) rest (.writeDone :: s.responses)) := by
  rw [step_writeRegister ctrl_standsAt h, writeTarget, writeCtrl_reset _ srst]
  rfl

/-- Settles O50: PEND is among the state that the write resets, and only the response is added. -/
theorem softResetAbandonsPendingCommand : Obligations.SoftResetAbandonsPendingCommand :=
  fun s _ rest srst h =>
    ⟨_, step_softReset srst h, rfl, atReset_inEnvironment (atReset_resetWith s.params) rest _⟩

/-! ### A host access leaves the inputs to come (log entry 3) -/

section access

variable (s : State)

theorem issue_inputs (v : Word) : (s.issue v).inputs = s.inputs := by
  unfold State.issue
  split <;> rfl

theorem writeCtrl_inputs (v : Word) : (s.writeCtrl v).inputs = s.inputs := by
  unfold State.writeCtrl
  split <;> rfl

theorem writeWidth_inputs (v : Word) : (s.writeWidth v).inputs = s.inputs := by
  unfold State.writeWidth
  split <;> rfl

theorem writeData_inputs (i : Nat) (v : Word) : (s.writeData i v).inputs = s.inputs := by
  unfold State.writeData
  split <;> rfl

theorem writeTarget_inputs (v : Word) (g : Target) : (writeTarget s v g).inputs = s.inputs := by
  cases g with
  | id | param | status | rsel | reserved => rfl
  | ctrl => exact writeCtrl_inputs s v
  | cmd => exact issue_inputs s v
  | width => exact writeWidth_inputs s v
  | data i => exact writeData_inputs s i v

theorem busWrite_inputs (off : Nat) (size : Size) (v : Word) : (busWrite s off size v).inputs = s.inputs := by
  unfold busWrite
  split
  · exact writeTarget_inputs s v _
  · rfl

theorem busRead_inputs (off : Nat) (size : Size) : (busRead s off size).1.inputs = s.inputs := by
  obtain h | h := busRead_state s off size
  · rw [h]
  · rw [h]; rfl

theorem hostAccess_inputs (a : Access) : (hostAccess a s).inputs = s.inputs := by
  cases a with
  | read addr size =>
    cases ho : portOffset s.params addr with
    | none => rw [hostAccess_read_elsewhere s ho]
    | some off => rw [hostAccess_read s ho]; exact busRead_inputs s off size
  | write addr size v =>
    cases ho : portOffset s.params addr with
    | none => rw [hostAccess_write_elsewhere s ho]
    | some off => rw [hostAccess_write s ho]; exact busWrite_inputs s off size v

end access

/-! ### Every step answers, and takes one input (70_reset_and_hazards.md R247) -/

/-- The engine's turn leaves no command pending and the inputs to come as they are. -/
theorem engineTurn_next (s : State) : ∃ t, engineTurn s = .next t ∧ t.inputs = s.inputs ∧ t.busy = false := by
  cases hb : s.busy with
  | true =>
    obtain ⟨r, hr⟩ := engineStep_completes s
    have completed := complete_completes s r
    exact ⟨_, (engineTurn_busy hb).trans hr, completed.inputs, completed.busy⟩
  | false => exact ⟨s, engineTurn_idle hb, rfl, hb⟩

theorem step_next (s : State) : ∃ t, step s = .next t ∧ t.inputs = s.inputs.tail := by
  cases hi : s.inputs with
  | nil =>
    obtain ⟨t, ht, inputs, -⟩ := engineTurn_next s
    exact ⟨t, (step_noInput hi).trans ht, inputs.trans hi⟩
  | cons x rest =>
    cases x with
    | access a => exact ⟨_, step_access hi, hostAccess_inputs _ a⟩
    | hardwareReset => exact ⟨_, step_hardwareReset hi, rfl⟩
    | engineTurn =>
      obtain ⟨t, ht, inputs, -⟩ := engineTurn_next { s with inputs := rest }
      exact ⟨t, (step_engineTurn hi).trans ht, inputs⟩

/-- Settles O54: each kind of input, and the turn of the engine when none is left, answers a state. -/
theorem stepNeverStops : Obligations.StepNeverStops := by
  intro s
  obtain ⟨t, ht, -⟩ := step_next s
  exact ⟨t, ht⟩

/-! ### Runs to the end (70_reset_and_hazards.md R247, R250) -/

theorem run_next (n : Nat) (s : State) : ∃ t, Host.Core.run core n s = .next t ∧ t.inputs = s.inputs.drop n := by
  induction n generalizing s with
  | zero => exact ⟨s, run_zero s, rfl⟩
  | succ n ih =>
    obtain ⟨u, hu, taken⟩ := step_next s
    obtain ⟨t, ht, left⟩ := ih u
    exact ⟨t, (run_succ hu n).trans ht, by rw [left, taken, List.drop_tail]⟩

/-- After the last input, one turn of the engine completes what may still be pending. -/
theorem run_exhausts_inputs (s : State) :
    ∃ t, Host.Core.run core (s.inputs.length + 1) s = .next t ∧ t.inputs = [] ∧ t.busy = false := by
  obtain ⟨u, hu, left⟩ := run_next s.inputs.length s
  rw [List.drop_length] at left
  obtain ⟨t, ht, inputs, idle⟩ := engineTurn_next u
  have last : Host.Core.run core 1 u = .next t := run_succ ((step_noInput left).trans ht) 0
  exact ⟨t, (run_add hu).trans last, inputs.trans left, idle⟩

/-- The run from `s` is in an ended state after `n` steps. -/
def EndedAfter (s : State) (n : Nat) : Prop := ∃ t, Host.Core.run core n s = .next t ∧ Ended t

theorem endedAfter_inputs (s : State) : EndedAfter s (s.inputs.length + 1) := by
  obtain ⟨t, run, noInput, idle⟩ := run_exhausts_inputs s
  exact ⟨t, run, hostDone_of_noInput noInput, idle⟩

/-- A run that ends has a first ended state. -/
theorem exists_first_ended {s : State} {bound : Nat} (h : EndedAfter s bound) :
    ∃ n ≤ bound, EndedAfter s n ∧ ∀ m < n, ¬EndedAfter s m := by
  classical
  exact ⟨Nat.find ⟨bound, h⟩, Nat.find_min' _ h, Nat.find_spec _, fun _ => Nat.find_min _⟩

/-! ### Steps from an ended state (60_exceptions.md R236; log entry 17) -/

/-- From an ended state, with no access to come and nothing pending, a step is a hardware reset or an idle turn. -/
theorem step_cases_of_ended {s t : State} (ended : Ended s) (h : step s = .next t) :
    (∃ rest, s.inputs = .hardwareReset :: rest ∧ t = State.toReset { s with inputs := rest }) ∨
    (∃ rest, (s.inputs = [] ∧ rest = [] ∨ s.inputs = .engineTurn :: rest) ∧ t = { s with inputs := rest }) := by
  obtain ⟨hostDone, idle⟩ := ended
  obtain ⟨a, rest, hi, -⟩ | reset | ⟨rest, hi, ⟨busy, -⟩ | ⟨-, ht⟩⟩ := step_cases h
  · exact absurd (hi ▸ List.mem_cons_self) (hostDone a)
  · exact .inl reset
  · exact absurd (idle.symm.trans busy) Bool.false_ne_true
  · exact .inr ⟨rest, hi, ht⟩

theorem ended_of_step {s t : State} (ended : Ended s) (h : step s = .next t) : Ended t := by
  obtain ⟨rest, hi, rfl⟩ | ⟨rest, ⟨-, rfl⟩ | hi, rfl⟩ := step_cases_of_ended ended h
  · exact ⟨hostDone_tail ended.1 hi, rfl⟩
  · exact ⟨hostDone_of_noInput rfl, ended.2⟩
  · exact ⟨hostDone_tail ended.1 hi, ended.2⟩

theorem finalState_of_step_hardwareReset {s t : State} {rest : List Input} (hi : s.inputs = .hardwareReset :: rest)
    (h : step s = .next t) : t.finalState = (State.resetWith s.params).finalState := by
  obtain rfl := Host.Outcome.next.inj ((step_hardwareReset hi).symm.trans h)
  exact toReset_finalState _

theorem finalState_of_step_ended {s t : State} (ended : Ended s) (noReset : ∀ rest, s.inputs ≠ .hardwareReset :: rest)
    (h : step s = .next t) : t.finalState = s.finalState := by
  obtain ⟨rest, hi, -⟩ | ⟨rest, -, rfl⟩ := step_cases_of_ended ended h
  · exact absurd hi (noReset rest)
  · exact withInputs_finalState s rest

/-- Settles O55: a run that has taken all its inputs and one turn more has ended, so it has a first ended state; from there
a step is a hardware reset or an idle turn. -/
theorem everyScheduleRunsToItsEnd : Obligations.EveryScheduleRunsToItsEnd := by
  refine ⟨fun s => ?firstEnd, run_exhausts_inputs, fun s t ended h => ⟨ended_of_step ended h, ?reset, ?otherwise⟩⟩
  case firstEnd =>
    obtain ⟨n, bound, ⟨t, run, ended⟩, first⟩ := exists_first_ended (endedAfter_inputs s)
    exact ⟨n, t, bound, run, ended, fun m earlier u run' ended' => first m earlier ⟨u, run', ended'⟩⟩
  case reset => exact fun ⟨rest, hi⟩ => finalState_of_step_hardwareReset hi h
  case otherwise => exact fun noReset => finalState_of_step_ended ended noReset h

end Sys2Proof.Proofs
